-- ==== Sys2Proof/Word.lean ====
section
/-! DEFINITION. The word types of the engine: the widths the spec names (00_scope R8, R15; 10_state R20, R23, R24). -/

namespace Sys2Proof

/-- A 4-bit field: a register index (10_state R22), a row count, the register `WX` (10_state R32). -/
abbrev Nibble := BitVec 4

/-- A byte: a general register, a timer, a memory byte, an immediate (10_state R20, R28, R29). -/
abbrev Byte := BitVec 8

/-- A 12-bit address field `nnn` (30_encoding R71). -/
abbrev Addr := BitVec 12

/-- A 16-bit word: an instruction word, `I`, `pc`, a stack entry (10_state R23, R24, R26). -/
abbrev Word := BitVec 16

end Sys2Proof
end

