-- ==== Sys2Proof/Config.lean ====
section
/-! DEFINITION. What an implementation fixes (00_scope R6, R7) and the one free value (00_scope R13). -/

namespace Sys2Proof.Config

/-- MEM_SIZE: 4096 bytes, addresses 0x000 to 0xFFF (00_scope R6). -/
def memSize : Nat := 4096

/-- PROG_BASE: where `load` puts the image and where `pc` starts (00_scope R6). -/
def progBase : Nat := 0x200

/-- PROG_MAX: the longest image `load` accepts, 4096 − 0x200 bytes (00_scope R6). -/
def progMax : Nat := 3584

/-- FRAME_RATE: 60 frames per second (00_scope R6). -/
def frameRate : Nat := 60

/-- The display is 64 cells wide (00_scope R6). -/
def displayWidth : Nat := 64

/-- The display is 32 cells high (00_scope R6). -/
def displayHeight : Nat := 32

/-- DRAW_OOB: what a set sprite bit off the display does (44_display R183). -/
inductive DrawOob where
  | fault
  | clip
  deriving DecidableEq, Repr

/-- SHIFT_SRC: the register the shifts read (41_alu R129). -/
inductive ShiftSrc where
  | vx
  | vy
  deriving DecidableEq, Repr

/-- LOGIC_VF: what OR, AND and XOR do to `VF` (41_alu section 3). -/
inductive LogicVf where
  | keep
  | reset
  deriving DecidableEq, Repr

/-- JUMP_REG: the offset register of Bnnn (40_control_flow R103). -/
inductive JumpReg where
  | v0
  | vx
  deriving DecidableEq, Repr

/-- FONT_DIGIT: how Fx29 reads its digit (42_index_memory R142). -/
inductive FontDigit where
  | lowNibble
  | full
  deriving DecidableEq, Repr

/-- KEY_OOR: what Ex9E and ExA1 do with a key value above 15 (43_timers_keys, `keyidx`). -/
inductive KeyOor where
  | fault
  | lowNibble
  deriving DecidableEq, Repr

/-- The implementation parameters of 00_scope R6 that have a default value.
IPF and SPF are the structure `Rates`, TONE_SAMPLE and SILENCE the structure `Waveform`:
the spec leaves those OPEN, so they are arguments of the operations that use them. -/
structure Params where
  /-- STACK_DEPTH (10_state R26). -/
  stackDepth : Nat
  /-- FONT: the 80 glyph bytes `load` copies to 0x000 (70_reset_and_hazards R251). -/
  font : Vector Byte 80
  /-- DECODE_STRICT (30_encoding R75, R77). -/
  decodeStrict : Bool
  /-- DRAW_OOB (44_display R183). -/
  drawOob : DrawOob
  /-- PC_ALIGN_CHECK (30_encoding R88). -/
  pcAlignCheck : Bool
  /-- SHIFT_SRC (41_alu R129, R131). -/
  shiftSrc : ShiftSrc
  /-- LOGIC_VF (41_alu R124, R125, R126). -/
  logicVf : LogicVf
  /-- JUMP_REG (40_control_flow R103). -/
  jumpReg : JumpReg
  /-- FONT_DIGIT (42_index_memory R142). -/
  fontDigit : FontDigit
  /-- KEY_OOR (43_timers_keys R163, R164). -/
  keyOor : KeyOor
  deriving DecidableEq, Repr

/-- The OPEN rates of the scheduler (00_scope R6, 92_eei_decisions D3, D4): no source gives a value,
so every operation that uses them takes them as an argument. -/
structure Rates where
  /-- IPF, instructions per frame. -/
  ipf : Nat
  /-- SPF, audio samples per frame. -/
  spf : Nat
  deriving DecidableEq, Repr

/-- Both rates are at least 1 (00_scope R6). -/
def Rates.valid (r : Rates) : Bool := decide (1 ≤ r.ipf) && decide (1 ≤ r.spf)

/-- The OPEN sample values (00_scope R6, 60_exceptions R232, 92_eei_decisions D5): a tone-on sample is
`tone P`, every other sample is `silence`. The sample type is open too. -/
structure Waveform (σ : Type) where
  tone : Nat → σ
  silence : σ

/-- The byte the n-th draw of a run gives (00_scope R13: a byte under no law; DESIGN CHOICE of form, log 2).
It has no body: a statement that holds of it holds of every sequence of draws. -/
opaque draw8 : Nat → Byte

end Sys2Proof.Config
end

