-- ==== Sys2Proof/Machine/Defaults.lean ====
section
/-! DEFINITION. The default values of the parameters (00_scope R6), among them the conventional font (70_reset R251). -/

namespace Sys2Proof.Machine

/-- Glyphs 0 to 7 of the conventional font, five bytes each, top row first (70_reset_and_hazards R251). -/
def fontGlyphsLow : List Byte :=
  [ 0xF0, 0x90, 0x90, 0x90, 0xF0
  , 0x20, 0x60, 0x20, 0x20, 0x70
  , 0xF0, 0x10, 0xF0, 0x80, 0xF0
  , 0xF0, 0x10, 0xF0, 0x10, 0xF0
  , 0x90, 0x90, 0xF0, 0x10, 0x10
  , 0xF0, 0x80, 0xF0, 0x10, 0xF0
  , 0xF0, 0x80, 0xF0, 0x90, 0xF0
  , 0xF0, 0x10, 0x20, 0x40, 0x40 ]

/-- Glyphs 8 to F of the conventional font (70_reset_and_hazards R251). -/
def fontGlyphsHigh : List Byte :=
  [ 0xF0, 0x90, 0xF0, 0x90, 0xF0
  , 0xF0, 0x90, 0xF0, 0x10, 0xF0
  , 0xF0, 0x90, 0xF0, 0x90, 0x90
  , 0xE0, 0x90, 0xE0, 0x90, 0xE0
  , 0xF0, 0x80, 0x80, 0x80, 0xF0
  , 0xE0, 0x90, 0x90, 0x90, 0xE0
  , 0xF0, 0x80, 0xF0, 0x80, 0xF0
  , 0xF0, 0x80, 0xF0, 0x80, 0x80 ]

/-- FONT's default, the conventional CHIP-8 glyph set (70_reset_and_hazards R251; 92_eei_decisions D45; log 8). -/
def conventionalFont : Vector Byte 80 := ⟨(fontGlyphsLow ++ fontGlyphsHigh).toArray, rfl⟩

/-- Every parameter of 00_scope R6 at its default value (log 7). -/
def defaultParams : Config.Params where
  stackDepth := 16
  font := conventionalFont
  decodeStrict := false
  drawOob := .fault
  pcAlignCheck := true
  shiftSrc := .vx
  logicVf := .keep
  jumpReg := .v0
  fontDigit := .lowNibble
  keyOor := .fault

end Sys2Proof.Machine
end

