-- ==== Sys2Proof/Syntax.lean ====
section
/-! DEFINITION. The instructions: one constructor per row of spec/opcode_table.json (30_encoding R81, R90). -/

namespace Sys2Proof

/-- The 34 instructions of 30_encoding R81, in the table's order, with their decoded fields (30_encoding R71).
CLS and RET keep the ignored nibble `x`, 5xyN and 9xyN the ignored nibble `n` (30_encoding R84): no meaning reads
them, but DECODE_STRICT judges them, and with them a word and its instruction determine each other (log 6). -/
inductive Instr where
  /-- 00E0 CLS. -/
  | cls (x : Nibble)
  /-- 00EE RET. -/
  | ret (x : Nibble)
  /-- 1nnn JP addr. -/
  | jp (nnn : Addr)
  /-- 2nnn CALL addr. -/
  | call (nnn : Addr)
  /-- 3xkk SE Vx, byte. -/
  | seByte (x : Nibble) (kk : Byte)
  /-- 4xkk SNE Vx, byte. -/
  | sneByte (x : Nibble) (kk : Byte)
  /-- 5xy0 SE Vx, Vy. -/
  | seReg (x y n : Nibble)
  /-- 6xkk LD Vx, byte. -/
  | ldByte (x : Nibble) (kk : Byte)
  /-- 7xkk ADD Vx, byte. -/
  | addByte (x : Nibble) (kk : Byte)
  /-- 8xy0 LD Vx, Vy. -/
  | ldReg (x y : Nibble)
  /-- 8xy1 OR Vx, Vy. -/
  | orReg (x y : Nibble)
  /-- 8xy2 AND Vx, Vy. -/
  | andReg (x y : Nibble)
  /-- 8xy3 XOR Vx, Vy. -/
  | xorReg (x y : Nibble)
  /-- 8xy4 ADD Vx, Vy. -/
  | addReg (x y : Nibble)
  /-- 8xy5 SUB Vx, Vy. -/
  | sub (x y : Nibble)
  /-- 8xy6 SHR Vx {, Vy}. -/
  | shr (x y : Nibble)
  /-- 8xy7 SUBN Vx, Vy. -/
  | subn (x y : Nibble)
  /-- 8xyE SHL Vx {, Vy}. -/
  | shl (x y : Nibble)
  /-- 9xy0 SNE Vx, Vy. -/
  | sneReg (x y n : Nibble)
  /-- Annn LD I, addr. -/
  | ldI (nnn : Addr)
  /-- Bnnn JP V0, addr. -/
  | jpV0 (nnn : Addr)
  /-- Cxkk RND Vx, byte. -/
  | rnd (x : Nibble) (kk : Byte)
  /-- Dxyn DRW Vx, Vy, nibble. -/
  | drw (x y n : Nibble)
  /-- Ex9E SKP Vx. -/
  | skp (x : Nibble)
  /-- ExA1 SKNP Vx. -/
  | sknp (x : Nibble)
  /-- Fx07 LD Vx, DT. -/
  | ldVxDt (x : Nibble)
  /-- Fx0A LD Vx, K. -/
  | ldVxK (x : Nibble)
  /-- Fx15 LD DT, Vx. -/
  | ldDtVx (x : Nibble)
  /-- Fx18 LD ST, Vx. -/
  | ldStVx (x : Nibble)
  /-- Fx1E ADD I, Vx. -/
  | addIVx (x : Nibble)
  /-- Fx29 LD F, Vx. -/
  | ldFVx (x : Nibble)
  /-- Fx33 LD B, Vx. -/
  | ldBVx (x : Nibble)
  /-- Fx55 LD [I], Vx. -/
  | ldMemVx (x : Nibble)
  /-- Fx65 LD Vx, [I]. -/
  | ldVxMem (x : Nibble)
  deriving DecidableEq, Repr

end Sys2Proof
end

