-- ==== Sys2Proof/WellFormed.lean ====
section
/-! DEFINITION. When an instruction is well formed: the don't-care bits under DECODE_STRICT (30_encoding R75, R77, R84).
Every other field has its width in its type, so no other check exists (10_state R22: no index can be out of range). -/

namespace Sys2Proof

/-- Under DECODE_STRICT = true the nibble `x` of CLS and RET and the nibble `n` of 5xyN and 9xyN must be 0
(30_encoding R75, R77); with DECODE_STRICT = false no bit is judged (R84). -/
def Instr.wellFormed (strict : Bool) : Instr → Bool
  | .cls x => !strict || x == 0
  | .ret x => !strict || x == 0
  | .jp _ => true
  | .call _ => true
  | .seByte _ _ => true
  | .sneByte _ _ => true
  | .seReg _ _ n => !strict || n == 0
  | .ldByte _ _ => true
  | .addByte _ _ => true
  | .ldReg _ _ => true
  | .orReg _ _ => true
  | .andReg _ _ => true
  | .xorReg _ _ => true
  | .addReg _ _ => true
  | .sub _ _ => true
  | .shr _ _ => true
  | .subn _ _ => true
  | .shl _ _ => true
  | .sneReg _ _ n => !strict || n == 0
  | .ldI _ => true
  | .jpV0 _ => true
  | .rnd _ _ => true
  | .drw _ _ _ => true
  | .skp _ => true
  | .sknp _ => true
  | .ldVxDt _ => true
  | .ldVxK _ => true
  | .ldDtVx _ => true
  | .ldStVx _ => true
  | .addIVx _ => true
  | .ldFVx _ => true
  | .ldBVx _ => true
  | .ldMemVx _ => true
  | .ldVxMem _ => true

end Sys2Proof
end

