-- ==== Sys2Proof/Decode.lean ====
section
/-! DEFINITION. Decode and dispatch, and the encoder (30_encoding R70 to R84, R91). -/

namespace Sys2Proof

/-- The field tuple of a word (30_encoding R71, R73). -/
structure Fields where
  f : Nibble
  x : Nibble
  y : Nibble
  n : Nibble
  kk : Byte
  nnn : Addr
  deriving DecidableEq, Repr

/-- `decode(w) = (f, x, y, n, kk, nnn)` for every word: pure and total (30_encoding R73). -/
def decodeFields (w : Word) : Fields where
  f := w.extractLsb' 12 4
  x := w.extractLsb' 8 4
  y := w.extractLsb' 4 4
  n := w.extractLsb' 0 4
  kk := w.extractLsb' 0 8
  nnn := w.extractLsb' 0 12

/-- Why bytes are no instruction. -/
inductive DecodeError where
  /-- The word's discriminant is mapped by no rule (30_encoding R74, R82). -/
  | illegalInstruction (w : Word)
  /-- Fewer than the two bytes every instruction has (30_encoding R70). -/
  | truncated
  deriving DecidableEq, Repr

/-- Family 0x0, keyed on `kk`; the nibble `x` is not part of the key (30_encoding R75). -/
def dispatchFamily0 (d : Fields) : Option Instr :=
  match d.kk.toNat with
  | 0xE0 => some (.cls d.x)
  | 0xEE => some (.ret d.x)
  | _ => none

/-- Family 0x8, keyed on the low nibble (30_encoding R78). -/
def dispatchFamily8 (d : Fields) : Option Instr :=
  match d.n.toNat with
  | 0x0 => some (.ldReg d.x d.y)
  | 0x1 => some (.orReg d.x d.y)
  | 0x2 => some (.andReg d.x d.y)
  | 0x3 => some (.xorReg d.x d.y)
  | 0x4 => some (.addReg d.x d.y)
  | 0x5 => some (.sub d.x d.y)
  | 0x6 => some (.shr d.x d.y)
  | 0x7 => some (.subn d.x d.y)
  | 0xE => some (.shl d.x d.y)
  | _ => none

/-- Family 0xE, keyed on the low byte (30_encoding R79). -/
def dispatchFamilyE (d : Fields) : Option Instr :=
  match d.kk.toNat with
  | 0x9E => some (.skp d.x)
  | 0xA1 => some (.sknp d.x)
  | _ => none

/-- Family 0xF, keyed on the low byte (30_encoding R80). -/
def dispatchFamilyF (d : Fields) : Option Instr :=
  match d.kk.toNat with
  | 0x07 => some (.ldVxDt d.x)
  | 0x0A => some (.ldVxK d.x)
  | 0x15 => some (.ldDtVx d.x)
  | 0x18 => some (.ldStVx d.x)
  | 0x1E => some (.addIVx d.x)
  | 0x29 => some (.ldFVx d.x)
  | 0x33 => some (.ldBVx d.x)
  | 0x55 => some (.ldMemVx d.x)
  | 0x65 => some (.ldVxMem d.x)
  | _ => none

/-- The dispatcher on a field tuple with DECODE_STRICT = false (30_encoding R74 to R80). -/
def dispatchFields (d : Fields) : Option Instr :=
  match d.f.toNat with
  | 0x0 => dispatchFamily0 d
  | 0x1 => some (.jp d.nnn)
  | 0x2 => some (.call d.nnn)
  | 0x3 => some (.seByte d.x d.kk)
  | 0x4 => some (.sneByte d.x d.kk)
  | 0x5 => some (.seReg d.x d.y d.n)
  | 0x6 => some (.ldByte d.x d.kk)
  | 0x7 => some (.addByte d.x d.kk)
  | 0x8 => dispatchFamily8 d
  | 0x9 => some (.sneReg d.x d.y d.n)
  | 0xA => some (.ldI d.nnn)
  | 0xB => some (.jpV0 d.nnn)
  | 0xC => some (.rnd d.x d.kk)
  | 0xD => some (.drw d.x d.y d.n)
  | 0xE => dispatchFamilyE d
  | 0xF => dispatchFamilyF d
  | _ => none

/-- The dispatcher on a word: one instruction, or the illegal-instruction condition by name. DECODE_STRICT
adds the words that are not well formed to the illegal ones (30_encoding R74, R75, R77, R82). -/
def dispatch (strict : Bool) (w : Word) : Except DecodeError Instr :=
  match dispatchFields (decodeFields w) with
  | none => .error (.illegalInstruction w)
  | some i => if i.wellFormed strict then .ok i else .error (.illegalInstruction w)

/-- The big-endian word of two bytes: the byte at the lower address is bits 15 to 8 (20_memory R54). -/
def wordOfBytes (hi lo : Byte) : Word := hi ++ lo

/-- The byte of a word at the lower address (20_memory R54). -/
def hiByte (w : Word) : Byte := w.extractLsb' 8 8

/-- The byte of a word at the higher address (20_memory R54). -/
def loByte (w : Word) : Byte := w.extractLsb' 0 8

/-- Decode the first instruction of any bytes, with the bytes after it. Every instruction is two bytes long
(30_encoding R70). -/
def decodeBytes (strict : Bool) : List Byte → Except DecodeError (Instr × List Byte)
  | hi :: lo :: rest =>
    match dispatch strict (wordOfBytes hi lo) with
    | .ok i => .ok (i, rest)
    | .error e => .error e
  | _ => .error .truncated

/-- The instruction the decoder reads from a word of the opcode table, laid out as the hardware stores it
(DECODE_STRICT at its default, 00_scope R6). -/
def decodeTableWord (nbits w : Nat) : Option Instr :=
  let word : Word := BitVec.ofNat 16 (w % 2 ^ nbits)
  match decodeBytes Machine.defaultParams.decodeStrict [hiByte word, loByte word] with
  | .ok (i, _) => some i
  | .error _ => none

/-- A word of the layout f, x, y, n (30_encoding R71). -/
def packXYN (f x y n : Nibble) : Word := f ++ x ++ y ++ n

/-- A word of the layout f, x, kk (30_encoding R71). -/
def packXKk (f x : Nibble) (kk : Byte) : Word := f ++ x ++ kk

/-- A word of the layout f, nnn (30_encoding R71). -/
def packNnn (f : Nibble) (nnn : Addr) : Word := f ++ nnn

/-- The word of an instruction, from the patterns of 30_encoding R81. -/
def encode : Instr → Word
  | .cls x => packXKk 0x0 x 0xE0
  | .ret x => packXKk 0x0 x 0xEE
  | .jp nnn => packNnn 0x1 nnn
  | .call nnn => packNnn 0x2 nnn
  | .seByte x kk => packXKk 0x3 x kk
  | .sneByte x kk => packXKk 0x4 x kk
  | .seReg x y n => packXYN 0x5 x y n
  | .ldByte x kk => packXKk 0x6 x kk
  | .addByte x kk => packXKk 0x7 x kk
  | .ldReg x y => packXYN 0x8 x y 0x0
  | .orReg x y => packXYN 0x8 x y 0x1
  | .andReg x y => packXYN 0x8 x y 0x2
  | .xorReg x y => packXYN 0x8 x y 0x3
  | .addReg x y => packXYN 0x8 x y 0x4
  | .sub x y => packXYN 0x8 x y 0x5
  | .shr x y => packXYN 0x8 x y 0x6
  | .subn x y => packXYN 0x8 x y 0x7
  | .shl x y => packXYN 0x8 x y 0xE
  | .sneReg x y n => packXYN 0x9 x y n
  | .ldI nnn => packNnn 0xA nnn
  | .jpV0 nnn => packNnn 0xB nnn
  | .rnd x kk => packXKk 0xC x kk
  | .drw x y n => packXYN 0xD x y n
  | .skp x => packXKk 0xE x 0x9E
  | .sknp x => packXKk 0xE x 0xA1
  | .ldVxDt x => packXKk 0xF x 0x07
  | .ldVxK x => packXKk 0xF x 0x0A
  | .ldDtVx x => packXKk 0xF x 0x15
  | .ldStVx x => packXKk 0xF x 0x18
  | .addIVx x => packXKk 0xF x 0x1E
  | .ldFVx x => packXKk 0xF x 0x29
  | .ldBVx x => packXKk 0xF x 0x33
  | .ldMemVx x => packXKk 0xF x 0x55
  | .ldVxMem x => packXKk 0xF x 0x65

/-- The two bytes of an instruction as memory holds them (20_memory R54). -/
def encodeBytes (i : Instr) : List Byte := [hiByte (encode i), loByte (encode i)]

/-- The row of 30_encoding R81 an instruction belongs to. -/
def Instr.row : Instr → Nat
  | .cls _ => 1
  | .ret _ => 2
  | .jp _ => 3
  | .call _ => 4
  | .seByte _ _ => 5
  | .sneByte _ _ => 6
  | .seReg _ _ _ => 7
  | .ldByte _ _ => 8
  | .addByte _ _ => 9
  | .ldReg _ _ => 10
  | .orReg _ _ => 11
  | .andReg _ _ => 12
  | .xorReg _ _ => 13
  | .addReg _ _ => 14
  | .sub _ _ => 15
  | .shr _ _ => 16
  | .subn _ _ => 17
  | .shl _ _ => 18
  | .sneReg _ _ _ => 19
  | .ldI _ => 20
  | .jpV0 _ => 21
  | .rnd _ _ => 22
  | .drw _ _ _ => 23
  | .skp _ => 24
  | .sknp _ => 25
  | .ldVxDt _ => 26
  | .ldVxK _ => 27
  | .ldDtVx _ => 28
  | .ldStVx _ => 29
  | .addIVx _ => 30
  | .ldFVx _ => 31
  | .ldBVx _ => 32
  | .ldMemVx _ => 33
  | .ldVxMem _ => 34

/-- The family of an instruction, its top nibble (00_scope R17, 30_encoding R81). -/
def Instr.family : Instr → Nibble
  | .cls _ => 0x0
  | .ret _ => 0x0
  | .jp _ => 0x1
  | .call _ => 0x2
  | .seByte _ _ => 0x3
  | .sneByte _ _ => 0x4
  | .seReg _ _ _ => 0x5
  | .ldByte _ _ => 0x6
  | .addByte _ _ => 0x7
  | .ldReg _ _ => 0x8
  | .orReg _ _ => 0x8
  | .andReg _ _ => 0x8
  | .xorReg _ _ => 0x8
  | .addReg _ _ => 0x8
  | .sub _ _ => 0x8
  | .shr _ _ => 0x8
  | .subn _ _ => 0x8
  | .shl _ _ => 0x8
  | .sneReg _ _ _ => 0x9
  | .ldI _ => 0xA
  | .jpV0 _ => 0xB
  | .rnd _ _ => 0xC
  | .drw _ _ _ => 0xD
  | .skp _ => 0xE
  | .sknp _ => 0xE
  | .ldVxDt _ => 0xF
  | .ldVxK _ => 0xF
  | .ldDtVx _ => 0xF
  | .ldStVx _ => 0xF
  | .addIVx _ => 0xF
  | .ldFVx _ => 0xF
  | .ldBVx _ => 0xF
  | .ldMemVx _ => 0xF
  | .ldVxMem _ => 0xF

/-- A row of spec/opcode_table.json: its number in 30_encoding R81, its pattern (`match`), its mask, and its mask
under DECODE_STRICT = true (`strict_mask`, the plain mask where the table gives none). -/
structure OpcodeRow where
  row : Nat
  pattern : Word
  mask : Word
  strictMask : Word
  deriving DecidableEq, Repr

/-- A word belongs to a row of the table: its masked bits are the row's pattern. -/
def OpcodeRow.matches (r : OpcodeRow) (strict : Bool) (w : Word) : Bool :=
  (w &&& (if strict then r.strictMask else r.mask)) == r.pattern

/-- Rows 1 to 17 of spec/opcode_table.json. -/
def opcodeRowsLow : List OpcodeRow :=
  [ ⟨1, 0x00E0, 0xF0FF, 0xFFFF⟩
  , ⟨2, 0x00EE, 0xF0FF, 0xFFFF⟩
  , ⟨3, 0x1000, 0xF000, 0xF000⟩
  , ⟨4, 0x2000, 0xF000, 0xF000⟩
  , ⟨5, 0x3000, 0xF000, 0xF000⟩
  , ⟨6, 0x4000, 0xF000, 0xF000⟩
  , ⟨7, 0x5000, 0xF000, 0xF00F⟩
  , ⟨8, 0x6000, 0xF000, 0xF000⟩
  , ⟨9, 0x7000, 0xF000, 0xF000⟩
  , ⟨10, 0x8000, 0xF00F, 0xF00F⟩
  , ⟨11, 0x8001, 0xF00F, 0xF00F⟩
  , ⟨12, 0x8002, 0xF00F, 0xF00F⟩
  , ⟨13, 0x8003, 0xF00F, 0xF00F⟩
  , ⟨14, 0x8004, 0xF00F, 0xF00F⟩
  , ⟨15, 0x8005, 0xF00F, 0xF00F⟩
  , ⟨16, 0x8006, 0xF00F, 0xF00F⟩
  , ⟨17, 0x8007, 0xF00F, 0xF00F⟩
  ]

/-- Rows 18 to 34 of spec/opcode_table.json. -/
def opcodeRowsHigh : List OpcodeRow :=
  [ ⟨18, 0x800E, 0xF00F, 0xF00F⟩
  , ⟨19, 0x9000, 0xF000, 0xF00F⟩
  , ⟨20, 0xA000, 0xF000, 0xF000⟩
  , ⟨21, 0xB000, 0xF000, 0xF000⟩
  , ⟨22, 0xC000, 0xF000, 0xF000⟩
  , ⟨23, 0xD000, 0xF000, 0xF000⟩
  , ⟨24, 0xE09E, 0xF0FF, 0xF0FF⟩
  , ⟨25, 0xE0A1, 0xF0FF, 0xF0FF⟩
  , ⟨26, 0xF007, 0xF0FF, 0xF0FF⟩
  , ⟨27, 0xF00A, 0xF0FF, 0xF0FF⟩
  , ⟨28, 0xF015, 0xF0FF, 0xF0FF⟩
  , ⟨29, 0xF018, 0xF0FF, 0xF0FF⟩
  , ⟨30, 0xF01E, 0xF0FF, 0xF0FF⟩
  , ⟨31, 0xF029, 0xF0FF, 0xF0FF⟩
  , ⟨32, 0xF033, 0xF0FF, 0xF0FF⟩
  , ⟨33, 0xF055, 0xF0FF, 0xF0FF⟩
  , ⟨34, 0xF065, 0xF0FF, 0xF0FF⟩
  ]

/-- spec/opcode_table.json, row by row. The decoder above does not use it: that the two agree is a statement. -/
def opcodeTable : List OpcodeRow := opcodeRowsLow ++ opcodeRowsHigh

/-- An operand in the assembler syntax of 30_encoding R91. -/
inductive AsmOperand where
  /-- `Vx`, written V0 to VF. -/
  | reg (x : Nibble)
  /-- `byte`, an 8-bit number. -/
  | byte (kk : Byte)
  /-- `addr`, a 12-bit number. -/
  | addr (nnn : Addr)
  /-- `nibble`, a 4-bit number. -/
  | nibble (n : Nibble)
  /-- `I`. -/
  | index
  /-- `[I]`, memory at `I`. -/
  | memI
  /-- `DT`. -/
  | dt
  /-- `ST`. -/
  | st
  /-- `K`. -/
  | key
  /-- `F`. -/
  | font
  /-- `B`. -/
  | bcd
  deriving DecidableEq, Repr

/-- The mnemonic and operands of an instruction (30_encoding R81, R91; 00_scope R16: notation only). The optional
`Vy` of the shifts is written, since it is encoded (R91). -/
def Instr.asm : Instr → String × List AsmOperand
  | .cls _ => ("CLS", [])
  | .ret _ => ("RET", [])
  | .jp nnn => ("JP", [.addr nnn])
  | .call nnn => ("CALL", [.addr nnn])
  | .seByte x kk => ("SE", [.reg x, .byte kk])
  | .sneByte x kk => ("SNE", [.reg x, .byte kk])
  | .seReg x y _ => ("SE", [.reg x, .reg y])
  | .ldByte x kk => ("LD", [.reg x, .byte kk])
  | .addByte x kk => ("ADD", [.reg x, .byte kk])
  | .ldReg x y => ("LD", [.reg x, .reg y])
  | .orReg x y => ("OR", [.reg x, .reg y])
  | .andReg x y => ("AND", [.reg x, .reg y])
  | .xorReg x y => ("XOR", [.reg x, .reg y])
  | .addReg x y => ("ADD", [.reg x, .reg y])
  | .sub x y => ("SUB", [.reg x, .reg y])
  | .shr x y => ("SHR", [.reg x, .reg y])
  | .subn x y => ("SUBN", [.reg x, .reg y])
  | .shl x y => ("SHL", [.reg x, .reg y])
  | .sneReg x y _ => ("SNE", [.reg x, .reg y])
  | .ldI nnn => ("LD", [.index, .addr nnn])
  | .jpV0 nnn => ("JP", [.reg 0, .addr nnn])
  | .rnd x kk => ("RND", [.reg x, .byte kk])
  | .drw x y n => ("DRW", [.reg x, .reg y, .nibble n])
  | .skp x => ("SKP", [.reg x])
  | .sknp x => ("SKNP", [.reg x])
  | .ldVxDt x => ("LD", [.reg x, .dt])
  | .ldVxK x => ("LD", [.reg x, .key])
  | .ldDtVx x => ("LD", [.dt, .reg x])
  | .ldStVx x => ("LD", [.st, .reg x])
  | .addIVx x => ("ADD", [.index, .reg x])
  | .ldFVx x => ("LD", [.font, .reg x])
  | .ldBVx x => ("LD", [.bcd, .reg x])
  | .ldMemVx x => ("LD", [.memI, .reg x])
  | .ldVxMem x => ("LD", [.reg x, .memI])

end Sys2Proof
end

