-- ==== Sys2Proof/Machine/State.lean ====
section
/-! DEFINITION. The state of the engine (10_state), its fault record (60_exceptions R200, R201) and its state after reset
(10_state R39; 70_reset_and_hazards R250, R254). -/

namespace Sys2Proof.Machine

/-- The seven fault kinds, each with the information it records (60_exceptions R200). Taking one is a NEXT state whose
fault latch holds the record (60_exceptions R202): see `State.raise`. -/
inductive FaultCause where
  /-- Code 1: dispatch of a word no rule maps (30_encoding R82). -/
  | illegalInstruction
  /-- Code 2: 2nnn with a full stack (40_control_flow R102). -/
  | stackOverflow (sp : Nat)
  /-- Code 3: 00EE with an empty stack (40_control_flow R100). -/
  | stackUnderflow (sp : Nat)
  /-- Code 4: fetch, Dxyn, Fx33, Fx55 or Fx65 outside memory; `addr` is the lowest offending address (42_index_memory R146). -/
  | memoryOutOfBounds (addr : Nat)
  /-- Code 5: Dxyn under DRAW_OOB = fault; the first off-screen set bit (44_display R183). -/
  | displayOutOfBounds (px py : Nat)
  /-- Code 6: a pc write that fails the check of 30_encoding R88. -/
  | pcOutOfRange (target : Nat)
  /-- Code 7: Ex9E or ExA1 under KEY_OOR = fault with `V[x]` above 15 (43_timers_keys R163, R164). -/
  | keyIndexOutOfRange (value : Byte)
  deriving DecidableEq, Repr

/-- The kinds of 60_exceptions R200 by name. -/
inductive FaultKind where
  | illegalInstruction
  | stackOverflow
  | stackUnderflow
  | memoryOutOfBounds
  | displayOutOfBounds
  | pcOutOfRange
  | keyIndexOutOfRange
  deriving DecidableEq, Repr

/-- A fault record (60_exceptions R201): `cause` is the record's kind with its info; the code follows from it
(`FaultRecord.code`); `opcode` is `none` when the fetch itself faulted. -/
structure FaultRecord where
  cause : FaultCause
  pc : Word
  opcode : Option Word
  deriving DecidableEq, Repr

/-- One audio segment (10_state R36). -/
structure Segment where
  count : Nat
  tone : Bool
  deriving DecidableEq, Repr

/-- The memory's listed bytes: addresses strictly rising, none equal to the reset contents of its address
(`Memory.wf`, `Memory.initial` in Machine/Ops.lean). -/
abbrev Memory := List Host.Cell

/-- The display, row by row from the top, each row column by column from the left (10_state R31). -/
abbrev Display := Vector (Vector Bool 64) 32

/-- The machine state: 10_state R20 to R36, and two fields of the model's own, `draws` and `params`. -/
structure State where
  /-- `V[0]` to `V[15]` (10_state R20). -/
  v : Vector Byte 16
  /-- The index register `I` (10_state R23). -/
  i : Word
  /-- The program counter (10_state R24). -/
  pc : Word
  /-- The call stack's STACK_DEPTH entries (10_state R26). -/
  stack : List Word
  /-- The number of occupied stack entries (10_state R27). -/
  sp : Nat
  /-- The delay timer `DT` (10_state R28). -/
  dt : Byte
  /-- The sound timer `ST` (10_state R29). -/
  st : Byte
  /-- The key table `Key` (10_state R30). -/
  keys : Vector Bool 16
  /-- The display bitmap `Disp` (10_state R31). -/
  disp : Display
  /-- The wait flag `W` (10_state R32). -/
  waiting : Bool
  /-- The wait register `WX` (10_state R32). -/
  waitReg : Nibble
  /-- The fault latch (10_state R34). -/
  faultLatch : Option FaultRecord
  /-- `frames_processed` (10_state R35). -/
  framesProcessed : Nat
  /-- The audio queue `Q`, head first (10_state R36). -/
  queue : List Segment
  /-- The consumer's sample phase `P` (10_state R36). -/
  phase : Nat
  /-- The 4096 bytes of memory (20_memory R50). -/
  mem : Memory
  /-- The model's own: how many draws Cxkk has made (00_scope R13; log 2). -/
  draws : Nat
  /-- The model's own: the parameters of 00_scope R6; no operation writes them (log 1). -/
  params : Config.Params
  deriving DecidableEq, Repr

/-- Why a step ends the run. The faults of 60_exceptions R200 do not: they are latched in a next state. -/
inductive Fault where
  /-- Raised by `step` alone, on a machine that is already halted: it changes nothing and returns the latched record
  (30_encoding R87, 60_exceptions R204). Safe: the spec says the same. -/
  | halted (record : FaultRecord)
  deriving DecidableEq, Repr

/-- Why an instruction has no meaning. -/
inductive Refusal where
  /-- Raised by an arm of `exec` whose instruction has no meaning yet; no arm is left so. Safe. -/
  | notModelled (mnemonic : String)
  deriving DecidableEq, Repr

/-- The outcome of one step of this machine. -/
abbrev Outcome := Host.Outcome State Fault Refusal

/-- The machine right after reset: `load` of the empty image with the default parameters (10_state R39;
70_reset_and_hazards R250, R254; log 3). -/
def State.reset : State where
  v := Vector.replicate 16 0
  i := 0
  pc := 0x200
  stack := List.replicate defaultParams.stackDepth 0
  sp := 0
  dt := 0
  st := 0
  keys := Vector.replicate 16 false
  disp := Vector.replicate 32 (Vector.replicate 64 false)
  waiting := false
  waitReg := 0
  faultLatch := none
  framesProcessed := 0
  queue := []
  phase := 0
  mem := []
  draws := 0
  params := defaultParams

end Sys2Proof.Machine
end

