-- ==== Sys2Proof/Machine/Ops.lean ====
section
/-! DEFINITION. The named operations on registers, memory, stack, keys and display; taking a fault; the pc check
(20_memory, 30_encoding R85 and R88, 60_exceptions R200 to R205). -/

namespace Sys2Proof.Machine

/-! ### General registers (10_state R20 to R22) -/

/-- `V[x]`. -/
def State.reg (s : State) (x : Nibble) : Byte := s.v[x.toNat]'(x.isLt)

/-- `V[x] <- b`. -/
def State.setReg (s : State) (x : Nibble) (b : Byte) : State := { s with v := s.v.set x.toNat b x.isLt }

/-- All registers at once (42_index_memory R145). -/
def State.setRegs (s : State) (v : Vector Byte 16) : State := { s with v := v }

/-- The registers `V[0]` to `V[x]`, in order (42_index_memory R144). -/
def State.regsUpTo (s : State) (x : Nibble) : List Byte := s.v.toList.take (x.toNat + 1)

/-! ### The other registers, one write each (10_state R23, R24, R28 to R32; 20_memory R50) -/

/-- `pc <- w`, without a check: the check is `State.commit`'s. -/
def State.setPc (s : State) (w : Word) : State := { s with pc := w }

/-- `I <- w`. -/
def State.setI (s : State) (w : Word) : State := { s with i := w }

/-- `DT <- b`. -/
def State.setDt (s : State) (b : Byte) : State := { s with dt := b }

/-- `ST <- b`. -/
def State.setSt (s : State) (b : Byte) : State := { s with st := b }

/-- `Disp <- d`. -/
def State.setDisp (s : State) (d : Display) : State := { s with disp := d }

/-- `W <- w`, `WX <- x`. -/
def State.setWait (s : State) (w : Bool) (x : Nibble) : State := { s with waiting := w, waitReg := x }

/-- `Mem <- m`. -/
def State.setMem (s : State) (m : Memory) : State := { s with mem := m }

/-- One more draw made (log 2). -/
def State.countDraw (s : State) : State := { s with draws := s.draws + 1 }

/-! ### Memory (20_memory R50 to R53, R58) -/

/-- What an unlisted address reads as: the reset contents, the font at 0x000 to 0x04F and 0x00 elsewhere
(10_state R39, 70_reset_and_hazards R251; log 8). -/
def Memory.initial (a : Nat) : Byte := conventionalFont[a]?.getD 0

/-- The byte at an address of the address space. -/
def Memory.get : Memory → Nat → Byte
  | [], a => Memory.initial a
  | (b, u) :: rest, a => if a = b then u else Memory.get rest a

/-- The list without the entry of one address. -/
def Memory.unlist (m : Memory) (a : Nat) : Memory := m.filter (fun c => c.1 != a)

/-- An entry put at its place in the rising order. -/
def Memory.insert (a : Nat) (b : Byte) : Memory → Memory
  | [] => [(a, b)]
  | c :: rest => if a < c.1 then (a, b) :: c :: rest else c :: Memory.insert a b rest

/-- Store one byte, keeping the canonical form: a byte equal to the reset contents is not listed. An address above
0xFFF is no address of the space: nothing is stored (every instruction's range check comes first, 20_memory R53). -/
def Memory.set (m : Memory) (a : Nat) (b : Byte) : Memory :=
  if a < Config.memSize then
    if b = Memory.initial a then m.unlist a else Memory.insert a b (m.unlist a)
  else m

/-- Store bytes at consecutive addresses, lowest first. -/
def Memory.setBytes (m : Memory) (a : Nat) : List Byte → Memory
  | [] => m
  | b :: bs => Memory.setBytes (m.set a b) (a + 1) bs

/-- The `n` bytes from an address upward. -/
def Memory.getBytes (m : Memory) (a : Nat) : Nat → List Byte
  | 0 => []
  | n + 1 => m.get a :: m.getBytes (a + 1) n

/-- The canonical form: addresses strictly rising, inside the address space, no entry equal to what its address reads
as unlisted. -/
abbrev Memory.wf (m : Memory) : Prop :=
  List.Pairwise (fun c d => c.1 < d.1) m ∧ ∀ c ∈ m, c.1 < Config.memSize ∧ c.2 ≠ Memory.initial c.1

/-- `MemRead(a, 1)`: `none` where the spec raises `MemoryOutOfBounds` (20_memory R52). -/
def State.memRead (s : State) (a : Nat) : Option Byte := if 0xFFF < a then none else some (s.mem.get a)

/-- The fault of an access to the `len` bytes from `I` upward: the address is the lowest one above 0xFFF, and the sum
is not wrapped (20_memory R53, 42_index_memory R146). An empty range makes no access. -/
def State.accessFault (s : State) (len : Nat) : Option FaultCause :=
  if 0 < len ∧ 0xFFF < s.i.toNat + (len - 1) then some (.memoryOutOfBounds (max s.i.toNat 0x1000)) else none

/-! ### Fetch (30_encoding R85) -/

/-- The word at `pc`, big-endian; `none` where one of the two reads raises `MemoryOutOfBounds`. -/
def State.fetch (s : State) : Option Word :=
  match s.memRead s.pc.toNat, s.memRead (s.pc.toNat + 1) with
  | some hi, some lo => some (wordOfBytes hi lo)
  | _, _ => none

/-- The fault of a fetch: the first of `pc`, `pc + 1` above 0xFFF (20_memory R55). -/
def State.fetchFault (s : State) : FaultCause := .memoryOutOfBounds (max s.pc.toNat 0x1000)

/-! ### Taking a fault (60_exceptions R200 to R204) -/

/-- The numeric code of a fault (60_exceptions R200). -/
def FaultCause.code : FaultCause → Nat
  | .illegalInstruction => 1
  | .stackOverflow _ => 2
  | .stackUnderflow _ => 3
  | .memoryOutOfBounds _ => 4
  | .displayOutOfBounds _ _ => 5
  | .pcOutOfRange _ => 6
  | .keyIndexOutOfRange _ => 7

/-- The kind of a fault (60_exceptions R200). -/
def FaultCause.kind : FaultCause → FaultKind
  | .illegalInstruction => .illegalInstruction
  | .stackOverflow _ => .stackOverflow
  | .stackUnderflow _ => .stackUnderflow
  | .memoryOutOfBounds _ => .memoryOutOfBounds
  | .displayOutOfBounds _ _ => .displayOutOfBounds
  | .pcOutOfRange _ => .pcOutOfRange
  | .keyIndexOutOfRange _ => .keyIndexOutOfRange

/-- The numbers of the info column of 60_exceptions R200, in its order. -/
def FaultCause.info : FaultCause → List Nat
  | .illegalInstruction => []
  | .stackOverflow sp => [sp]
  | .stackUnderflow sp => [sp]
  | .memoryOutOfBounds addr => [addr]
  | .displayOutOfBounds px py => [px, py]
  | .pcOutOfRange target => [target]
  | .keyIndexOutOfRange value => [value.toNat]

/-- The code of a record (60_exceptions R201). -/
def FaultRecord.code (r : FaultRecord) : Nat := r.cause.code

/-- The kind of a record (60_exceptions R201). -/
def FaultRecord.kind (r : FaultRecord) : FaultKind := r.cause.kind

/-- The record of a fault at the instruction `pc` addresses. The opcode is the word at `pc`, read again: nothing has
been written since the fetch, and it is `none` exactly when the fetch faults (60_exceptions R201; log 4). -/
def State.record (s : State) (c : FaultCause) : FaultRecord := ⟨c, s.pc, s.fetch⟩

/-- The state after a fault: only the fault latch changes (60_exceptions R202, R203). -/
def State.faulted (s : State) (c : FaultCause) : State := { s with faultLatch := some (s.record c) }

/-- Taking a fault: one operation for every fault of the engine. `s` is the state before the instruction, so every
pending write is dropped. No handler, no vector and no return exist (60_exceptions R202, R204): only `load` clears the
latch, so no operation stands beside this one. -/
def State.raise (s : State) (c : FaultCause) : Outcome := .next (s.faulted c)

/-! ### The pc check (30_encoding R88) -/

/-- A value `pc` may take: at most 0xFFF, and even while PC_ALIGN_CHECK = true. -/
def pcLegal (p : Config.Params) (t : Nat) : Bool := decide (t ≤ 0xFFF) && (!p.pcAlignCheck || t % 2 == 0)

/-- The last act of a handler: `pc <- t` with its check, and the handler's writes (`after`) only if it passes
(00_scope R14, 30_encoding R88). `s` is the state before the instruction. -/
def State.commit (s : State) (t : Nat) (after : State) : Outcome :=
  if pcLegal s.params t then .next (after.setPc (BitVec.ofNat 16 t)) else s.raise (.pcOutOfRange t)

/-- `pc <- pc + 2` after the handler's writes. -/
def State.fallThrough (s : State) (after : State) : Outcome := s.commit (s.pc.toNat + 2) after

/-- A conditional skip: `pc + 4` when the condition holds, else `pc + 2`, and no other write (40_control_flow R104). -/
def State.skipIf (s : State) (cond : Bool) : Outcome := s.commit (s.pc.toNat + if cond then 4 else 2) s

/-! ### The call stack (10_state R26, R27) -/

/-- A push: the entry at `sp`, then `sp + 1`. -/
def State.push (s : State) (w : Word) : State := { s with stack := s.stack.set s.sp w, sp := s.sp + 1 }

/-- The entry a pop reads. -/
def State.top (s : State) : Word := s.stack[s.sp - 1]?.getD 0

/-- A pop: `sp − 1`; the entry is not cleared. -/
def State.pop (s : State) : State := { s with sp := s.sp - 1 }

/-! ### Keys (10_state R30) -/

/-- `Key[k]`: the level of key k; false for a number that is no key. -/
def State.key (s : State) (k : Nat) : Bool := s.keys[k]?.getD false

/-- The lowest-numbered pressed key, if any (43_timers_keys R165). -/
def State.lowestKey (s : State) : Option Nat := (List.range 16).find? (fun k => s.key k)

/-- Some key is pressed. -/
def State.anyKey (s : State) : Bool := s.lowestKey.isSome

/-! ### Display (10_state R31) -/

/-- A position off the 64 × 32 display (44_display R183). -/
def offScreen (p : Nat × Nat) : Bool := decide (Config.displayWidth ≤ p.1) || decide (Config.displayHeight ≤ p.2)

/-- `Disp[px][py]`; false off the display. -/
def Display.cell (d : Display) (px py : Nat) : Bool := ((d[py]?).bind (fun row => row[px]?)).getD false

/-- The display with all cells 0. -/
def Display.clear : Display := Vector.replicate 32 (Vector.replicate 64 false)

/-- The display with the cells at the listed positions flipped; positions off the display have no cell. -/
def Display.flip (d : Display) (ps : List (Nat × Nat)) : Display :=
  Vector.ofFn fun py => Vector.ofFn fun px => d[py][px] ^^ ps.contains (px.val, py.val)

end Sys2Proof.Machine
end

