-- ==== Sys2Proof/Machine/Operands.lean ====
section
/-! DEFINITION. The operand forms (30_encoding R72): zero-extended fields, and the operands a parameter of 00_scope R6 chooses. -/

namespace Sys2Proof.Machine

/-- `zext_16(nnn)` (30_encoding R72). -/
def addrWord (nnn : Addr) : Word := nnn.setWidth 16

/-- The source of a shift: `V[x]`, or `V[y]` when SHIFT_SRC = Vy (41_alu R129, R131). -/
def State.shiftSource (s : State) (x y : Nibble) : Byte :=
  match s.params.shiftSrc with
  | .vx => s.reg x
  | .vy => s.reg y

/-- The offset of Bnnn: `V[0]`, or `V[x]` with x the top nibble of `nnn` when JUMP_REG = Vx (40_control_flow R103). -/
def State.jumpOffset (s : State) (nnn : Addr) : Byte :=
  match s.params.jumpReg with
  | .v0 => s.reg 0
  | .vx => s.reg (nnn.extractLsb' 8 4)

/-- The digit of Fx29: the low nibble of the value, or all of it when FONT_DIGIT = full (42_index_memory R142). -/
def fontDigitOf (p : Config.Params) (v : Byte) : Nat :=
  match p.fontDigit with
  | .lowNibble => v.toNat % 16
  | .full => v.toNat

/-- `keyidx(v)`: `none` where it raises `KeyIndexOutOfRange` (43_timers_keys section 2). -/
def keyIndex (p : Config.Params) (v : Byte) : Option Nat :=
  if v.toNat ≤ 15 then some v.toNat
  else match p.keyOor with
    | .lowNibble => some (v.toNat % 16)
    | .fault => none

/-- The three decimal digits of a byte: hundreds, tens, units (42_index_memory R143). -/
def bcdDigits (v : Byte) : List Byte :=
  [BitVec.ofNat 8 (v.toNat / 100), BitVec.ofNat 8 (v.toNat / 10 % 10), BitVec.ofNat 8 (v.toNat % 10)]

/-- The positions of the set bits of one sprite row, left to right: bit `7 − i` is column `i` (44_display R182). -/
def spriteRow (x0 py : Nat) (row : Byte) : List (Nat × Nat) :=
  (List.range 8).filterMap fun i => if row.getLsbD (7 - i) then some (x0 + i, py) else none

/-- The positions of the set bits of a sprite, row-major from its top-left pixel (44_display R181, R182). Coordinates
are never wrapped. -/
def spritePixels (x0 y0 : Nat) : List Byte → List (Nat × Nat)
  | [] => []
  | row :: rows => spriteRow x0 y0 row ++ spritePixels x0 (y0 + 1) rows

/-- The set bits of the sprite Dxyn reads: `n` rows from `I`, at `(V[x], V[y])` (44_display R181). -/
def State.sprite (s : State) (x y n : Nibble) : List (Nat × Nat) :=
  spritePixels (s.reg x).toNat (s.reg y).toNat (s.mem.getBytes s.i.toNat n.toNat)

/-- The fault of a sprite: under DRAW_OOB = fault, the first set bit off the display (44_display R183). -/
def drawFault (p : Config.Params) (ps : List (Nat × Nat)) : Option FaultCause :=
  match p.drawOob with
  | .clip => none
  | .fault => (ps.find? offScreen).map fun q => .displayOutOfBounds q.1 q.2

end Sys2Proof.Machine
end

