-- ==== Sys2Proof/Machine/Flags.lean ====
section
/-! DEFINITION. Every flag the engine computes, and the order in which `VF` is written (10_state R33; 41_alu R120, R133). -/

namespace Sys2Proof.Machine

/-- A flag as a byte: false is 0, true is 1 (00_scope R9). -/
def flagByte (b : Bool) : Byte := if b then 1 else 0

/-- Carry: the sum before truncation exceeds 255 (41_alu R127). -/
def carry (a b : Byte) : Bool := decide (255 < a.toNat + b.toNat)

/-- Not-borrow of `a − b`: a is at least b (41_alu R128, R130). -/
def notBorrow (a b : Byte) : Bool := decide (b.toNat ≤ a.toNat)

/-- The bit a right shift by one shifts out (41_alu R129). -/
def shiftedOutRight (src : Byte) : Bool := src.getLsbD 0

/-- The bit a left shift by one shifts out (41_alu R131). -/
def shiftedOutLeft (src : Byte) : Bool := src.getLsbD 7

/-- Collision: some set sprite bit lands on a cell that is 1; a bit off the display has no cell (44_display R181, R183). -/
def collision (d : Display) (ps : List (Nat × Nat)) : Bool := ps.any fun q => d.cell q.1 q.2

/-- `V[x] <- result`, then `VF <- flag`: the flag is written last (41_alu R120). -/
def State.setWithFlag (s : State) (x : Nibble) (result : Byte) (flag : Bool) : State :=
  (s.setReg x result).setReg 15 (flagByte flag)

/-- `V[x] <- result` of a logic operation, then `VF <- 0` when LOGIC_VF = reset (41_alu section 3). -/
def State.setLogic (s : State) (x : Nibble) (result : Byte) : State :=
  match s.params.logicVf with
  | .keep => s.setReg x result
  | .reset => (s.setReg x result).setReg 15 0

end Sys2Proof.Machine
end

