-- ==== Sys2Proof/Machine/Alu.lean ====
section
/-! DEFINITION. Register arithmetic and logic (41_alu). Each ends with `pc <- pc + 2` and its check. -/

namespace Sys2Proof.Machine

/-- 6xkk LD Vx, byte (41_alu R121). -/
def execLdByte (x : Nibble) (kk : Byte) (s : State) : Outcome := s.fallThrough (s.setReg x kk)

/-- 7xkk ADD Vx, byte: modulo 256, no carry (41_alu R122). -/
def execAddByte (x : Nibble) (kk : Byte) (s : State) : Outcome := s.fallThrough (s.setReg x (s.reg x + kk))

/-- 8xy0 LD Vx, Vy (41_alu R123). -/
def execLdReg (x y : Nibble) (s : State) : Outcome := s.fallThrough (s.setReg x (s.reg y))

/-- 8xy1 OR Vx, Vy (41_alu R124). -/
def execOrReg (x y : Nibble) (s : State) : Outcome := s.fallThrough (s.setLogic x (s.reg x ||| s.reg y))

/-- 8xy2 AND Vx, Vy (41_alu R125). -/
def execAndReg (x y : Nibble) (s : State) : Outcome := s.fallThrough (s.setLogic x (s.reg x &&& s.reg y))

/-- 8xy3 XOR Vx, Vy (41_alu R126). -/
def execXorReg (x y : Nibble) (s : State) : Outcome := s.fallThrough (s.setLogic x (s.reg x ^^^ s.reg y))

/-- 8xy4 ADD Vx, Vy with carry (41_alu R127). -/
def execAddReg (x y : Nibble) (s : State) : Outcome :=
  s.fallThrough (s.setWithFlag x (s.reg x + s.reg y) (carry (s.reg x) (s.reg y)))

/-- 8xy5 SUB Vx, Vy with not-borrow (41_alu R128). -/
def execSub (x y : Nibble) (s : State) : Outcome :=
  s.fallThrough (s.setWithFlag x (s.reg x - s.reg y) (notBorrow (s.reg x) (s.reg y)))

/-- 8xy6 SHR Vx: the source is SHIFT_SRC's register (41_alu R129). -/
def execShr (x y : Nibble) (s : State) : Outcome :=
  s.fallThrough (s.setWithFlag x (s.shiftSource x y >>> 1) (shiftedOutRight (s.shiftSource x y)))

/-- 8xy7 SUBN Vx, Vy: `V[y] − V[x]` with not-borrow (41_alu R130). -/
def execSubn (x y : Nibble) (s : State) : Outcome :=
  s.fallThrough (s.setWithFlag x (s.reg y - s.reg x) (notBorrow (s.reg y) (s.reg x)))

/-- 8xyE SHL Vx: the source is SHIFT_SRC's register (41_alu R131). -/
def execShl (x y : Nibble) (s : State) : Outcome :=
  s.fallThrough (s.setWithFlag x (s.shiftSource x y <<< 1) (shiftedOutLeft (s.shiftSource x y)))

/-- Cxkk RND Vx, byte: a free byte masked by `kk` (41_alu R132, 00_scope R13; log 2). A faulting RND makes no draw. -/
def execRnd (x : Nibble) (kk : Byte) (s : State) : Outcome :=
  s.fallThrough (s.countDraw.setReg x (Config.draw8 s.draws &&& kk))

end Sys2Proof.Machine
end

