-- ==== Sys2Proof/Machine/ControlFlow.lean ====
section
/-! DEFINITION. Control flow: RET, JP, CALL, JP V0 and the register skips (40_control_flow). -/

namespace Sys2Proof.Machine

/-- 00EE RET: `StackUnderflow`, then the popped address through the pc check (40_control_flow R100). -/
def execRet (s : State) : Outcome :=
  if s.sp = 0 then s.raise (.stackUnderflow s.sp) else s.commit s.top.toNat s.pop

/-- 1nnn JP addr (40_control_flow R101). -/
def execJp (nnn : Addr) (s : State) : Outcome := s.commit (addrWord nnn).toNat s

/-- 2nnn CALL addr: `StackOverflow`, then the target's check, then the push of `pc + 2` (40_control_flow R102). -/
def execCall (nnn : Addr) (s : State) : Outcome :=
  if s.params.stackDepth ≤ s.sp then s.raise (.stackOverflow s.sp)
  else s.commit (addrWord nnn).toNat (s.push (s.pc + 2))

/-- 3xkk SE Vx, byte (40_control_flow R104). -/
def execSeByte (x : Nibble) (kk : Byte) (s : State) : Outcome := s.skipIf (s.reg x == kk)

/-- 4xkk SNE Vx, byte (40_control_flow R105). -/
def execSneByte (x : Nibble) (kk : Byte) (s : State) : Outcome := s.skipIf (s.reg x != kk)

/-- 5xy0 SE Vx, Vy (40_control_flow R106). -/
def execSeReg (x y : Nibble) (s : State) : Outcome := s.skipIf (s.reg x == s.reg y)

/-- 9xy0 SNE Vx, Vy (40_control_flow R107). -/
def execSneReg (x y : Nibble) (s : State) : Outcome := s.skipIf (s.reg x != s.reg y)

/-- Bnnn JP V0, addr: an integer sum, not wrapped (40_control_flow R103). -/
def execJpV0 (nnn : Addr) (s : State) : Outcome := s.commit (nnn.toNat + (s.jumpOffset nnn).toNat) s

end Sys2Proof.Machine
end

