-- ==== Sys2Proof/Machine/DisplayInstr.lean ====
section
/-! DEFINITION. The display instructions (44_display). -/

namespace Sys2Proof.Machine

/-- 00E0 CLS: every cell 0; `VF` kept (44_display R180). -/
def execCls (s : State) : Outcome := s.fallThrough (s.setDisp Display.clear)

/-- Dxyn DRW Vx, Vy, nibble: the checks in the order memory, display, pc; then the set bits are XORed onto the display
and `VF` is the collision (44_display R181 to R183). -/
def execDrw (x y n : Nibble) (s : State) : Outcome :=
  match s.accessFault n.toNat with
  | some c => s.raise c
  | none =>
    match drawFault s.params (s.sprite x y n) with
    | some c => s.raise c
    | none => s.fallThrough
        ((s.setDisp (s.disp.flip (s.sprite x y n))).setReg 15 (flagByte (collision s.disp (s.sprite x y n))))

end Sys2Proof.Machine
end

