-- ==== Sys2Proof/Machine/IndexMemory.lean ====
section
/-! DEFINITION. The index register and memory transfers (42_index_memory). No instruction here writes a flag. -/

namespace Sys2Proof.Machine

/-- Annn LD I, addr (42_index_memory R140). -/
def execLdI (nnn : Addr) (s : State) : Outcome := s.fallThrough (s.setI (addrWord nnn))

/-- Fx1E ADD I, Vx: modulo 2^16, no fault above 0xFFF, `VF` kept (42_index_memory R141). -/
def execAddIVx (x : Nibble) (s : State) : Outcome := s.fallThrough (s.setI (s.i + (s.reg x).setWidth 16))

/-- Fx29 LD F, Vx: five bytes a glyph from FONT_BASE = 0x000 (42_index_memory R142). -/
def execLdFVx (x : Nibble) (s : State) : Outcome :=
  s.fallThrough (s.setI (BitVec.ofNat 16 (5 * fontDigitOf s.params (s.reg x))))

/-- Fx33 LD B, Vx: three digits at `I`; `I` is not changed (42_index_memory R143). -/
def execLdBVx (x : Nibble) (s : State) : Outcome :=
  match s.accessFault 3 with
  | some c => s.raise c
  | none => s.fallThrough (s.setMem (s.mem.setBytes s.i.toNat (bcdDigits (s.reg x))))

/-- Fx55 LD [I], Vx: `V[0..x]` to memory, then `I` advances by x + 1 (42_index_memory R144). -/
def execLdMemVx (x : Nibble) (s : State) : Outcome :=
  match s.accessFault (x.toNat + 1) with
  | some c => s.raise c
  | none => s.fallThrough
      ((s.setMem (s.mem.setBytes s.i.toNat (s.regsUpTo x))).setI (BitVec.ofNat 16 (s.i.toNat + x.toNat + 1)))

/-- The registers with `V[0..x]` loaded from the bytes at `I` upward (42_index_memory R145). -/
def State.loadedRegs (s : State) (x : Nibble) : Vector Byte 16 :=
  Vector.ofFn fun j => if j.val ≤ x.toNat then s.mem.get (s.i.toNat + j.val) else s.v[j]

/-- Fx65 LD Vx, [I]: memory to `V[0..x]`, then `I` advances by x + 1 (42_index_memory R145). -/
def execLdVxMem (x : Nibble) (s : State) : Outcome :=
  match s.accessFault (x.toNat + 1) with
  | some c => s.raise c
  | none => s.fallThrough ((s.setRegs (s.loadedRegs x)).setI (BitVec.ofNat 16 (s.i.toNat + x.toNat + 1)))

end Sys2Proof.Machine
end

