-- ==== Sys2Proof/Machine/TimersKeys.lean ====
section
/-! DEFINITION. Timers and keys (43_timers_keys). No instruction here writes a flag. -/

namespace Sys2Proof.Machine

/-- Ex9E SKP Vx: skip if key `V[x]` is pressed (43_timers_keys R163). -/
def execSkp (x : Nibble) (s : State) : Outcome :=
  match keyIndex s.params (s.reg x) with
  | none => s.raise (.keyIndexOutOfRange (s.reg x))
  | some k => s.skipIf (s.key k)

/-- ExA1 SKNP Vx: skip if key `V[x]` is not pressed (43_timers_keys R164). -/
def execSknp (x : Nibble) (s : State) : Outcome :=
  match keyIndex s.params (s.reg x) with
  | none => s.raise (.keyIndexOutOfRange (s.reg x))
  | some k => s.skipIf (!s.key k)

/-- Fx07 LD Vx, DT (43_timers_keys R160). -/
def execLdVxDt (x : Nibble) (s : State) : Outcome := s.fallThrough (s.setReg x s.dt)

/-- Fx0A LD Vx, K: latch the lowest pressed key; with none pressed, only `W` and `WX` are written and `pc` stays, with
no check (43_timers_keys R165; 90_conflicts C1). -/
def execLdVxK (x : Nibble) (s : State) : Outcome :=
  match s.lowestKey with
  | some k => s.fallThrough ((s.setWait false s.waitReg).setReg x (BitVec.ofNat 8 k))
  | none => .next (s.setWait true x)

/-- Fx15 LD DT, Vx (43_timers_keys R161). -/
def execLdDtVx (x : Nibble) (s : State) : Outcome := s.fallThrough (s.setDt (s.reg x))

/-- Fx18 LD ST, Vx: no audio is queued here (43_timers_keys R162). -/
def execLdStVx (x : Nibble) (s : State) : Outcome := s.fallThrough (s.setSt (s.reg x))

end Sys2Proof.Machine
end

