-- ==== Sys2Proof/Machine/Cycle.lean ====
section
/-! DEFINITION. The execution cycle: fetch, decode, dispatch, execute (30_encoding R85 to R89), and placing a word for it. -/

namespace Sys2Proof.Machine

/-- One cycle. A halted machine changes nothing and returns the latched record (30_encoding R87); a fetch fault comes
before an illegal word, an illegal word before the handler's own checks (30_encoding R86, 60_exceptions R205). -/
def cycle (s : State) : Outcome :=
  match s.faultLatch with
  | some r => .fault (.halted r)
  | none =>
    match s.fetch with
    | none => s.raise s.fetchFault
    | some w =>
      match dispatch s.params.decodeStrict w with
      | .error _ => s.raise .illegalInstruction
      | .ok i => exec i s

/-- What one call of `step()` returns to its caller (30_encoding R86, R89). -/
inductive StepResult where
  | ok
  | fault (record : FaultRecord)
  deriving DecidableEq, Repr

/-- The result of `step()`: a fault exactly when the machine is halted after it (30_encoding R86, R87, R89). -/
def stepResult (s : State) : StepResult :=
  match cycle s with
  | .next t =>
    match t.faultLatch with
    | some r => .fault r
    | none => .ok
  | .fault (.halted r) => .fault r
  | .refused _ => .ok

/-- A word stored big-endian where the next cycle fetches, on a machine that is not halted, so that the next cycle runs
it (log 3). -/
def State.placeWord (s : State) (w : Word) : State :=
  { s with mem := s.mem.setBytes s.pc.toNat [hiByte w, loByte w], faultLatch := none }

end Sys2Proof.Machine
end

