-- ==== Sys2Proof/Machine/Step.lean ====
section
/-! DEFINITION. The step of the machine: one cycle of the main context, the spec's `step()` (30_encoding R86). -/

namespace Sys2Proof.Machine

/-- One step is one cycle. -/
def step (s : State) : Host.Outcome State Fault Refusal := cycle s

/-- The state with an instruction of `nbits` bits stored where `step` fetches next. -/
def State.withFetchWord (s : State) (nbits w : Nat) : State := s.placeWord (BitVec.ofNat 16 (w % 2 ^ nbits))

end Sys2Proof.Machine
end

