-- ==== Sys2Proof/Machine/Audio.lean ====
section
/-! DEFINITION. The audio context: `fill_audio` (60_exceptions R230 to R233; 20_memory R61). -/

namespace Sys2Proof.Machine

/-- `count` samples of one segment from phase `p` on (60_exceptions R232). -/
def segmentSamples {σ : Type} (wave : Config.Waveform σ) (tone : Bool) (p count : Nat) : List σ :=
  (List.range count).map fun j => if tone then wave.tone (p + j) else wave.silence

/-- The loop of `fill_audio` with `need` samples still to emit at phase `p`: the samples and the queue left over. A
segment is removed when its last sample is emitted, else shortened in place (60_exceptions R230, R231). -/
def drainQueue {σ : Type} (wave : Config.Waveform σ) : List Segment → Nat → Nat → List σ × List Segment
  | q, 0, _ => ([], q)
  | [], need + 1, _ => (List.replicate (need + 1) wave.silence, [])
  | seg :: q, need + 1, p =>
    let m := min seg.count (need + 1)
    if m = seg.count then
      let rest := drainQueue wave q (need + 1 - m) (p + m)
      (segmentSamples wave seg.tone p m ++ rest.1, rest.2)
    else (segmentSamples wave seg.tone p m, { seg with count := seg.count - m } :: q)

/-- `fill_audio(L)`: one critical section of the audio context. It works on a halted machine too (60_exceptions R204,
R230). The phase counts every sample, padding included (60_exceptions R232). -/
def State.fillAudio {σ : Type} (wave : Config.Waveform σ) (len : Nat) (s : State) : List σ × State :=
  ((drainQueue wave s.queue len s.phase).1,
    { s with queue := (drainQueue wave s.queue len s.phase).2, phase := s.phase + len })

end Sys2Proof.Machine
end

