-- ==== Sys2Proof/Machine/Scheduler.lean ====
section
/-! DEFINITION. The frame scheduler: `tick_frame`, the wait gate and the main loop (60_exceptions R210 to R223). -/

namespace Sys2Proof.Machine

/-- `floor(elapsed * 60)`: the frames of the time since `load` (60_exceptions R211). -/
def totalFrames (elapsed : Rat) : Nat := (elapsed * (Config.frameRate : Rat)).floor.toNat

/-- The frames due at a reconciliation (60_exceptions R211): none when `elapsed` moved backwards. -/
def State.framesDue (s : State) (elapsed : Rat) : Nat := totalFrames elapsed - s.framesProcessed

/-- A timer after `n` frames: one less a frame, down to 0 (60_exceptions R212). -/
def timerAfter (t : Byte) (n : Nat) : Byte := BitVec.ofNat 8 (t.toNat - min t.toNat n)

/-- The segments one reconciliation appends (60_exceptions R213): tone for the frames in which `ST` was nonzero, then
silence for the rest of the frames due; nothing when `ST` was 0, and never an empty segment. -/
def toneSegments (spf : Nat) (st : Byte) (n : Nat) : List Segment :=
  let t := min st.toNat n
  if st.toNat = 0 then []
  else (if 0 < t then [⟨t * spf, true⟩] else []) ++ (if 0 < n - t then [⟨(n - t) * spf, false⟩] else [])

/-- The reconciliation of `n` frames on a machine that is not halted (60_exceptions R211 to R213). -/
def State.reconcile (s : State) (spf n : Nat) : State :=
  { s with
    framesProcessed := s.framesProcessed + n
    dt := timerAfter s.dt n
    st := timerAfter s.st n
    queue := s.queue ++ toneSegments spf s.st n }

/-- What `tick_frame` returns: the frames due and the instruction budget (60_exceptions R211, R214). -/
structure FrameReport where
  framesDue : Nat
  budget : Nat
  deriving DecidableEq, Repr

/-- `tick_frame(elapsed)`: on a halted machine it returns (0, 0) and changes nothing (60_exceptions R211, R215). -/
def State.tickFrame (r : Config.Rates) (elapsed : Rat) (s : State) : FrameReport × State :=
  match s.faultLatch with
  | some _ => (⟨0, 0⟩, s)
  | none => (⟨s.framesDue elapsed, r.ipf * max (s.framesDue elapsed) 1⟩, s.reconcile r.spf (s.framesDue elapsed))

/-- The wait gate: waiting and no key pressed (60_exceptions R221). -/
def State.gate (s : State) : Bool := s.waiting && !s.anyKey

/-- `set_key(index, pressed)`; an index above 15 is refused and has no effect (60_exceptions R241). -/
def State.setKey (index : Nat) (pressed : Bool) (s : State) : State :=
  { s with keys := s.keys.setIfInBounds index pressed }

/-- Does `set_key` refuse this index (60_exceptions R241)? -/
def setKeyRefused (index : Nat) : Bool := decide (15 < index)

/-- The batch of one iteration: steps until the budget is used, the machine is halted or the gate closes
(60_exceptions R220). The number is how many steps ran. -/
def State.runBatch : Nat → State → Nat × State
  | 0, s => (0, s)
  | budget + 1, s =>
    if s.faultLatch.isSome || s.gate then (0, s)
    else match step s with
      | .next t => ((t.runBatch budget).1 + 1, (t.runBatch budget).2)
      | .fault _ => (0, s)
      | .refused _ => (0, s)

/-- One iteration of the main loop, as the host sees it. -/
structure Iteration where
  report : FrameReport
  /-- How many cycles the batch ran. -/
  steps : Nat
  /-- The fault a step of the batch reported, if one did. -/
  fault : Option FaultRecord
  /-- The display presented after the batch. -/
  presented : Display
  /-- No frame was due, so the loop sleeps about 1/60 s: no effect on the state (60_exceptions R222). -/
  slept : Bool
  state : State
  deriving DecidableEq, Repr

/-- One iteration of the main loop: key events, reconciliation, batch, presentation, sleep, in that order
(60_exceptions R220, R222, R223; log 14). -/
def State.iteration (r : Config.Rates) (keyEvents : List (Nat × Bool)) (elapsed : Rat) (s : State) : Iteration :=
  let polled := keyEvents.foldl (fun u e => u.setKey e.1 e.2) s
  let ticked := polled.tickFrame r elapsed
  let batch := ticked.2.runBatch ticked.1.budget
  { report := ticked.1
    steps := batch.1
    fault := if ticked.2.faultLatch.isSome then none else batch.2.faultLatch
    presented := batch.2.disp
    slept := decide (ticked.1.framesDue = 0)
    state := batch.2 }

end Sys2Proof.Machine
end

