-- ==== Sys2Proof/Machine/HostOps.lean ====
section
/-! DEFINITION. The host interface: `load`, `get_display`, and the six operations interleaved
(60_exceptions R224, R235, R240 to R246; 70_reset_and_hazards R250). -/

namespace Sys2Proof.Machine

/-- The memory after `load`: all zero, then the font at 0x000, then the image at 0x200 (70_reset_and_hazards R250). The
empty list is the conventional font over zeros, so the font parameter is written over it. -/
def loadedMemory (p : Config.Params) (image : List Byte) : Memory :=
  (Memory.setBytes [] 0 p.font.toList).setBytes Config.progBase image

/-- The state `load` creates from an image that fits (10_state R39, 70_reset_and_hazards R250). -/
def loadedState (p : Config.Params) (draws : Nat) (image : List Byte) : State :=
  { State.reset with
    stack := List.replicate p.stackDepth 0
    mem := loadedMemory p image
    draws := draws
    params := p }

/-- `load(bytes)`: `none` is `LoadFailure`, with nothing created or changed (70_reset_and_hazards R250). The image is
not inspected (R254). The draws a run makes are not repeated by a later `load` (log 2). -/
def State.load (image : List Byte) (s : State) : Option State :=
  if Config.progMax < image.length then none else some (loadedState s.params s.draws image)

/-- `get_display()`: the bitmap; nothing changes (60_exceptions R242). -/
def State.getDisplay (s : State) : Display := s.disp

/-- The six operations with their inputs (60_exceptions R240). -/
inductive HostOp where
  | load (image : List Byte)
  | step
  | tickFrame (elapsed : Rat)
  | setKey (index : Nat) (pressed : Bool)
  | getDisplay
  | fillAudio (len : Nat)
  deriving DecidableEq, Repr

/-- The two agents (00_scope R19, 60_exceptions R235). -/
inductive Agent where
  | main
  | audio
  deriving DecidableEq, Repr

/-- The agent an operation belongs to (60_exceptions R240). -/
def HostOp.agent : HostOp → Agent
  | .load _ => .main
  | .step => .main
  | .tickFrame _ => .main
  | .setKey _ _ => .main
  | .getDisplay => .main
  | .fillAudio _ => .audio

/-- The state after one operation: each is one atomic transition of its agent (20_memory R61, 60_exceptions R240). A
refused `load` and a step of a halted machine change nothing. What `fill_audio` leaves does not depend on the samples,
so no waveform is an argument here. -/
def HostOp.apply (r : Config.Rates) : HostOp → State → State
  | .load image, s => (s.load image).getD s
  | .step, s =>
    match Machine.step s with
    | .next t => t
    | .fault _ => s
    | .refused _ => s
  | .tickFrame elapsed, s => (s.tickFrame r elapsed).2
  | .setKey index pressed, s => s.setKey index pressed
  | .getDisplay, s => s
  | .fillAudio len, s => (s.fillAudio ⟨fun _ => (), ()⟩ len).2

/-- A run: any operations in any order (60_exceptions R224, R235; 92_eei_decisions D34). Every run of the main loop, with
the audio context between any two of its operations, is one. -/
def runOps (r : Config.Rates) (ops : List HostOp) (s : State) : State := ops.foldl (fun u op => op.apply r u) s

end Sys2Proof.Machine
end

