-- ==== Sys2Proof/Safety.lean ====
section
/-! DEFINITION. The terms claims use: halted and parked (60_exceptions R244), the invariant of the engine, and what a
transition leaves unchanged. -/

namespace Sys2Proof.Machine

/-- *Halted*: the fault latch holds a record (60_exceptions R244). -/
abbrev State.halted (s : State) : Prop := s.faultLatch.isSome = true

/-- *Parked*: the word at `pc` is `1nnn` with `nnn = pc`, a jump to itself (60_exceptions R244). A fetch that gives a
word has `pc` below 4096, so the twelve bits are all of `pc`. -/
abbrev State.parked (s : State) : Prop := s.fetch = some (packNnn 0x1 (s.pc.setWidth 12))

/-- `pc` is below 4096, and even while PC_ALIGN_CHECK = true (10_state R24). -/
abbrev State.pcInv (s : State) : Prop := pcLegal s.params s.pc.toNat = true

/-- `sp` never exceeds the stack capacity, and the stack has STACK_DEPTH entries (10_state R26, R27). -/
abbrev State.stackInv (s : State) : Prop :=
  s.sp ≤ s.params.stackDepth ∧ s.stack.length = s.params.stackDepth

/-- Every stack entry is at most 0x1000, and even while PC_ALIGN_CHECK = true: what CALL can push (40_control_flow R100, R102). -/
abbrev State.returnsInv (s : State) : Prop :=
  ∀ a ∈ s.stack, a.toNat ≤ 0x1000 ∧ (s.params.pcAlignCheck = true → a.toNat % 2 = 0)

/-- Every queued segment has at least one sample (60_exceptions R233). -/
abbrev State.queueInv (s : State) : Prop := ∀ g ∈ s.queue, 1 ≤ g.count

/-- A latched record describes the instruction `pc` still addresses (60_exceptions R201, R203). -/
abbrev State.latchInv (s : State) : Prop :=
  ∀ r, s.faultLatch = some r → r.pc = s.pc ∧ r.opcode = s.fetch

/-- A waiting machine stands at the Fx0A that is pending, and `WX` is its destination (10_state R32, 90_conflicts C1). -/
abbrev State.waitInv (s : State) : Prop := s.waiting = true → s.fetch = some (encode (.ldVxK s.waitReg))

/-- The invariant of the engine over every operation of its two contexts. -/
structure State.Inv (s : State) : Prop where
  mem : Memory.wf s.mem
  pc : s.pcInv
  stack : s.stackInv
  returns : s.returnsInv
  queue : s.queueInv
  latch : s.latchInv
  wait : s.waitInv

/-- Every general register outside the list holds its value. -/
abbrev State.regsKept (s t : State) (except : List Nibble) : Prop := ∀ k, k ∉ except → t.reg k = s.reg k

/-- Every byte of memory reads as before. -/
abbrev State.memKept (s t : State) : Prop := ∀ a, t.mem.get a = s.mem.get a

/-- Every byte of memory outside `[a, a + len)` reads as before. -/
abbrev State.memKeptOutside (s t : State) (a len : Nat) : Prop :=
  ∀ b, b < a ∨ a + len ≤ b → t.mem.get b = s.mem.get b

/-- Everything but the general registers, `I`, `pc` and memory is unchanged: stack, timers, keys, display, latches,
scheduler and audio state, draws and parameters. -/
structure State.restKept (s t : State) : Prop where
  stack : t.stack = s.stack
  sp : t.sp = s.sp
  dt : t.dt = s.dt
  st : t.st = s.st
  keys : t.keys = s.keys
  disp : t.disp = s.disp
  waiting : t.waiting = s.waiting
  waitReg : t.waitReg = s.waitReg
  faultLatch : t.faultLatch = s.faultLatch
  framesProcessed : t.framesProcessed = s.framesProcessed
  queue : t.queue = s.queue
  phase : t.phase = s.phase
  draws : t.draws = s.draws
  params : t.params = s.params

/-- The next state of an instruction that changes only the listed registers and `pc`. Where it changes one more field,
a claim says so of the next state and puts the old value of that field back. -/
structure State.onlyRegs (s t : State) (dests : List Nibble) (pc : Nat) : Prop where
  pc : t.pc.toNat = pc
  regs : s.regsKept t dests
  i : t.i = s.i
  mem : s.memKept t
  rest : s.restKept t

/-- The instruction takes `PcOutOfRange(target)`, and changes nothing else, when the target fails the check of
30_encoding R88. -/
def State.pcTraps (s : State) (i : Instr) (target : Nat) : Prop :=
  pcLegal s.params target = false → exec i s = .next (s.faulted (.pcOutOfRange target))

/-- The next state of an arithmetic instruction with a flag: the result unless `x` is F, the flag in `VF`, and no other
change (41_alu R120). -/
structure State.flagResult (s t : State) (x : Nibble) (result : Nat) (flag : Prop) : Prop where
  result : x ≠ 15 → (t.reg x).toNat = result
  set : flag → t.reg 15 = 1
  cleared : ¬ flag → t.reg 15 = 0
  frame : s.onlyRegs t [x, 15] (s.pc.toNat + 2)

/-- The next state of a logic instruction, for both values of LOGIC_VF (41_alu section 3). -/
structure State.logicResult (s t : State) (x : Nibble) (result : Byte) : Prop where
  keep : s.params.logicVf = .keep → t.reg x = result ∧ s.onlyRegs t [x] (s.pc.toNat + 2)
  reset : s.params.logicVf = .reset →
    (x ≠ 15 → t.reg x = result) ∧ t.reg 15 = 0 ∧ s.onlyRegs t [x, 15] (s.pc.toNat + 2)

/-- A set bit of the sprite Dxyn reads falls on position (px, py) (44_display R182). -/
def State.spriteBit (s : State) (x y n : Nibble) (px py : Nat) : Prop :=
  ∃ j i, j < n.toNat ∧ i < 8 ∧ px = (s.reg x).toNat + i ∧ py = (s.reg y).toNat + j ∧
    (s.mem.get (s.i.toNat + j)).getLsbD (7 - i) = true

/-- The tone flags of the samples a queue still holds, in order of consumption (60_exceptions R230, R231). -/
def queueSamples (q : List Segment) : List Bool := q.flatMap fun g => List.replicate g.count g.tone

/-- Two states that differ at most in the audio queue and the phase: what the main context can tell apart
(60_exceptions R235). -/
def State.sameButAudio (s t : State) : Prop := { t with queue := s.queue, phase := s.phase } = s

end Sys2Proof.Machine
end

