-- ==== Sys2Proof/Certificates/Slice0/Obligations.lean ====
section
/-! DEFINITION. The statements for the provers. -/

open Sys2Proof Sys2Proof.Machine

/-! ### Encoding and dispatch -/

/-- A few words of spec/95_test_vectors.md (L2-A) and of the rules' examples decode to the instruction they stand for. -/
def Obligations.KnownWordsDecode : Prop :=
  decodeTableWord 16 0x00E0 = some (.cls 0) ∧
  decodeTableWord 16 0x0FEE = some (.ret 15) ∧
  decodeTableWord 16 0x2210 = some (.call 0x210) ∧
  decodeTableWord 16 0x5121 = some (.seReg 1 2 1) ∧
  decodeTableWord 16 0x8306 = some (.shr 3 0) ∧
  decodeTableWord 16 0xC00F = some (.rnd 0 0x0F) ∧
  decodeTableWord 16 0xD125 = some (.drw 1 2 5) ∧
  decodeTableWord 16 0xEFA1 = some (.sknp 15) ∧
  decodeTableWord 16 0xF265 = some (.ldVxMem 2) ∧
  decodeTableWord 16 0xF066 = none ∧
  decodeTableWord 16 0x0123 = none

/-- Decode and encode agree: every well-formed instruction, at every operand value, is what its word decodes to, and
its two bytes are what `decodeBytes` takes from the front of any bytes (30_encoding R71 to R81). -/
def Obligations.DecodeOfEncodeIsTheInstruction : Prop :=
  ∀ (strict : Bool) (i : Instr), i.wellFormed strict = true →
    dispatch strict (encode i) = .ok i ∧
    ∀ rest, decodeBytes strict (encodeBytes i ++ rest) = .ok (i, rest)

/-- The other direction: a word that decodes is the word of its instruction, and the instruction is well formed
(30_encoding R71, R75, R77). That no bit of a word is dropped is the model's choice (log 6): the spec's decode ignores the
nibble `x` of CLS and RET and the nibble `n` of 5xyN and 9xyN, and the model keeps each as a field no meaning reads. -/
def Obligations.EncodeOfDecodeIsTheWord : Prop :=
  ∀ (strict : Bool) (w : Word) (i : Instr), dispatch strict w = .ok i →
    encode i = w ∧ i.wellFormed strict = true

/-- The dispatcher agrees with spec/opcode_table.json: a word has a row's pattern under the row's mask exactly when it
decodes to an instruction of that row, for both values of DECODE_STRICT (30_encoding R81). -/
def Obligations.DispatchAgreesWithOpcodeTable : Prop :=
  ∀ (strict : Bool) (w : Word) (r : OpcodeRow), r ∈ opcodeTable →
    (r.matches strict w = true ↔ ∃ i, dispatch strict w = .ok i ∧ i.row = r.row)

/-- The illegal words are those the lists of 30_encoding R82 name, for both values of DECODE_STRICT. -/
def Obligations.IllegalWordsAreTheListed : Prop :=
  ∀ (strict : Bool) (w : Word),
    dispatch strict w = .error (.illegalInstruction w) ↔
      ((decodeFields w).f = 0x0 ∧ (decodeFields w).kk ∉ ([0xE0, 0xEE] : List Byte)) ∨
      ((decodeFields w).f = 0x8 ∧ (decodeFields w).n ∈ ([0x8, 0x9, 0xA, 0xB, 0xC, 0xD, 0xF] : List Nibble)) ∨
      ((decodeFields w).f = 0xE ∧ (decodeFields w).kk ∉ ([0x9E, 0xA1] : List Byte)) ∨
      ((decodeFields w).f = 0xF ∧
        (decodeFields w).kk ∉ ([0x07, 0x0A, 0x15, 0x18, 0x1E, 0x29, 0x33, 0x55, 0x65] : List Byte)) ∨
      (strict = true ∧ (decodeFields w).f = 0x0 ∧ (decodeFields w).kk ∈ ([0xE0, 0xEE] : List Byte) ∧
        (decodeFields w).x ≠ 0) ∨
      (strict = true ∧ (decodeFields w).f = 0x5 ∧ (decodeFields w).n ≠ 0) ∨
      (strict = true ∧ (decodeFields w).f = 0x9 ∧ (decodeFields w).n ≠ 0)

/-! ### The cycle and its faults -/

/-- A step runs the decoded instruction: `step` adds nothing around `exec` (30_encoding R86). -/
def Obligations.StepRunsTheDecodedInstruction : Prop :=
  ∀ (s : State) (w : Word) (i : Instr), s.faultLatch = none → s.fetch = some w →
    dispatch s.params.decodeStrict w = .ok i → step s = exec i s

/-- An illegal word latches IllegalInstruction with its address and raw opcode, and changes nothing else; no word
executes as a no-op (30_encoding R82, R83, R86). -/
def Obligations.IllegalWordIsLatched : Prop :=
  ∀ (s : State) (w : Word), s.faultLatch = none → s.fetch = some w →
    dispatch s.params.decodeStrict w = .error (.illegalInstruction w) →
    ∃ t, step s = .next t ∧ t.faultLatch = some ⟨.illegalInstruction, s.pc, some w⟩ ∧
      { t with faultLatch := none } = s

/-- Fetch is big-endian from `pc` and `pc + 1`; with an even `pc` inside memory it cannot fault; at 0xFFF it raises
MemoryOutOfBounds(0x1000) with no opcode (30_encoding R85). -/
def Obligations.FetchReadsTwoBytesBigEndian : Prop :=
  (∀ s : State, s.pc.toNat ≤ 0xFFE →
    ∃ w, s.fetch = some w ∧
      w.toNat = 256 * (s.mem.get s.pc.toNat).toNat + (s.mem.get (s.pc.toNat + 1)).toNat) ∧
  (∀ s : State, s.params.pcAlignCheck = true → s.pcInv → s.pc.toNat ≤ 0xFFE ∧ s.fetch.isSome = true) ∧
  (∀ s : State, s.pc = 0xFFF → s.faultLatch = none →
    ∃ t, step s = .next t ∧ t.faultLatch = some ⟨.memoryOutOfBounds 0x1000, 0xFFF, none⟩ ∧
      { t with faultLatch := none } = s)

/-- A halted machine: a step changes nothing and returns the latched record again, and every operation but `load` keeps
the record (30_encoding R87). -/
def Obligations.HaltedStepReturnsTheLatchedFault : Prop :=
  ∀ (s : State) (rec : FaultRecord), s.faultLatch = some rec →
    step s = .fault (.halted rec) ∧ stepResult s = .fault rec ∧
    ∀ r, HostOp.step.apply r s = s ∧
      ∀ op : HostOp, (∀ image, op ≠ .load image) → (op.apply r s).faultLatch = some rec

/-- Faults are precise: after a step that faults, every piece of state but the latch is as before, `pc` still addresses
the faulting instruction, and the record holds that address and the fetched word (60_exceptions R203). -/
def Obligations.FaultsArePrecise : Prop :=
  ∀ (s t : State) (rec : FaultRecord), step s = .next t → t.faultLatch = some rec →
    { t with faultLatch := none } = s ∧ rec.pc = s.pc ∧ rec.opcode = s.fetch ∧
      stepResult s = .fault rec

/-- A machine that is not halted always makes its step: no instruction and no word is refused. Every fault is fatal in the
spec; that the faulting step answers a next state with the latch written, and that `exec` answers one on a halted state
too, is the model's form (log 4). -/
def Obligations.EveryStepOfARunningMachineCompletes : Prop :=
  (∀ s : State, s.faultLatch = none → ∃ t, step s = .next t) ∧
  (∀ (i : Instr) (s : State), ∃ t, exec i s = .next t)

/-! ### Invariants -/

/-- The invariant of the engine holds at reset. -/
def Obligations.ResetMeetsTheInvariant : Prop := State.reset.Inv

/-- Every step keeps the invariant of the engine, from every state that meets it, for every value of the parameters. -/
def Obligations.StepKeepsTheInvariant : Prop :=
  ∀ s t : State, s.Inv → step s = .next t → t.Inv

/-- Every run of the six operations, of both contexts and in any order, keeps the invariant (60_exceptions R224). -/
def Obligations.EveryRunKeepsTheInvariant : Prop :=
  ∀ (r : Config.Rates) (ops : List HostOp) (s : State), r.valid = true → s.Inv → (runOps r ops s).Inv

/-- `pc` starts at 0x200 and, with PC_ALIGN_CHECK = true, every operation keeps it even and below 4096 (10_state R24). -/
def Obligations.PcStaysEvenInsideMemory : Prop :=
  State.reset.pc = 0x200 ∧
  ∀ (r : Config.Rates) (op : HostOp) (s : State), s.params.pcAlignCheck = true →
    s.pc.toNat % 2 = 0 ∧ s.pc.toNat < 4096 →
    (op.apply r s).pc.toNat % 2 = 0 ∧ (op.apply r s).pc.toNat < 4096

/-- A handler that changes `pc` writes a value that passes the check: at most 0xFFF, and even while
PC_ALIGN_CHECK = true (30_encoding R88; 40_control_flow R109). -/
def Obligations.EveryNewPcPassesTheCheck : Prop :=
  ∀ (i : Instr) (s t : State), exec i s = .next t → t.pc ≠ s.pc →
    t.pc.toNat ≤ 0xFFF ∧ (s.params.pcAlignCheck = true → t.pc.toNat % 2 = 0)

/-- Who writes `I`, memory and the stack: `I` only Annn, Fx1E, Fx29, Fx55 and Fx65; memory only Fx33 and Fx55; the
stack and `sp` only 2nnn and 00EE (10_state R23, R26; 20_memory R50). -/
def Obligations.WritersOfIndexMemoryAndStack : Prop :=
  ∀ (i : Instr) (s t : State), exec i s = .next t →
    (t.i ≠ s.i → (∃ a, i = .ldI a) ∨ ∃ x, i = .addIVx x ∨ i = .ldFVx x ∨ i = .ldMemVx x ∨ i = .ldVxMem x) ∧
    (t.mem ≠ s.mem → ∃ x, i = .ldBVx x ∨ i = .ldMemVx x) ∧
    (t.stack ≠ s.stack ∨ t.sp ≠ s.sp → (∃ a, i = .call a) ∨ ∃ x, i = .ret x)

/-- Who writes the timers, the display and the wait latch: `DT` only Fx15, `ST` only Fx18, the display only 00E0 and
Dxyn, `W` and `WX` only Fx0A (10_state R28, R29, R31, R32; 70_reset_and_hazards R262). -/
def Obligations.WritersOfTimersDisplayAndWaitLatch : Prop :=
  ∀ (i : Instr) (s t : State), exec i s = .next t →
    (t.dt ≠ s.dt → ∃ x, i = .ldDtVx x) ∧
    (t.st ≠ s.st → ∃ x, i = .ldStVx x) ∧
    (t.disp ≠ s.disp → (∃ x, i = .cls x) ∨ ∃ x y n, i = .drw x y n) ∧
    (t.waiting ≠ s.waiting ∨ t.waitReg ≠ s.waitReg → ∃ x, i = .ldVxK x)

/-- No step writes the key table, the frame count, the audio queue, the phase or the parameters
(10_state R30, R35, R36; 70_reset_and_hazards R262, R263). -/
def Obligations.StepLeavesHostStateAlone : Prop :=
  ∀ s t : State, step s = .next t →
    t.keys = s.keys ∧ t.framesProcessed = s.framesProcessed ∧ t.queue = s.queue ∧ t.phase = s.phase ∧
      t.params = s.params

/-- The machine state never depends on the audio context: two states equal but for the queue and the phase stay so
under the same operations, and stay so when the audio context runs on one of them alone (60_exceptions R235). -/
def Obligations.MachineStateIgnoresTheAudioContext : Prop :=
  ∀ (r : Config.Rates) (ops : List HostOp) (s t : State), s.sameButAudio t →
    (runOps r ops s).sameButAudio (runOps r ops t) ∧
    (runOps r ops s).sameButAudio (runOps r (ops.filter (fun op => op.agent = .main)) t)

/-! ### Control flow -/

/-- 00EE RET (40_control_flow R100): the underflow, the return, the refused return, and that under the engine's
invariants only 0x1000 is refused. -/
def Obligations.RetPopsTheReturnAddress : Prop :=
  ∀ (x : Nibble) (s : State),
    (∀ strict, (strict = true → x = 0) → dispatch strict (packXKk 0x0 x 0xEE) = .ok (.ret x)) ∧
    (s.sp = 0 → exec (.ret x) s = .next (s.faulted (.stackUnderflow 0))) ∧
    ∀ a, 0 < s.sp → s.stack[s.sp - 1]? = some a →
      (pcLegal s.params a.toNat = true →
        ∃ t, exec (.ret x) s = .next t ∧ t.sp = s.sp - 1 ∧ s.onlyRegs { t with sp := s.sp } [] a.toNat) ∧
      s.pcTraps (.ret x) a.toNat ∧
      (s.returnsInv → pcLegal s.params a.toNat = false → a = 0x1000)

/-- 1nnn JP addr (40_control_flow R101). -/
def Obligations.JpJumps : Prop :=
  ∀ (nnn : Addr) (s : State),
    (∀ strict, dispatch strict (packNnn 0x1 nnn) = .ok (.jp nnn)) ∧
    (¬ (s.params.pcAlignCheck = true ∧ nnn.toNat % 2 = 1) →
      ∃ t, exec (.jp nnn) s = .next t ∧ s.onlyRegs t [] nnn.toNat) ∧
    (s.params.pcAlignCheck = true → nnn.toNat % 2 = 1 →
      exec (.jp nnn) s = .next (s.faulted (.pcOutOfRange nnn.toNat)))

/-- 2nnn CALL addr (40_control_flow R102): the overflow before the target's check, then the push of `pc + 2`. -/
def Obligations.CallPushesAndJumps : Prop :=
  ∀ (nnn : Addr) (s : State),
    (∀ strict, dispatch strict (packNnn 0x2 nnn) = .ok (.call nnn)) ∧
    (s.sp = s.params.stackDepth → exec (.call nnn) s = .next (s.faulted (.stackOverflow s.params.stackDepth))) ∧
    (s.stackInv → s.sp < s.params.stackDepth →
      (pcLegal s.params nnn.toNat = true →
        ∃ t, exec (.call nnn) s = .next t ∧ t.sp = s.sp + 1 ∧ t.stack[s.sp]? = some (s.pc + 2) ∧
          (∀ j, j ≠ s.sp → t.stack[j]? = s.stack[j]?) ∧
          s.onlyRegs { t with sp := s.sp, stack := s.stack } [] nnn.toNat) ∧
      s.pcTraps (.call nnn) nnn.toNat)

/-- Bnnn JP V0, addr (40_control_flow R103), for both values of JUMP_REG: the integer sum, not wrapped. -/
def Obligations.JpV0AddsTheOffsetRegister : Prop :=
  ∀ (nnn : Addr) (s : State) (off : Byte),
    (∀ strict, dispatch strict (packNnn 0xB nnn) = .ok (.jpV0 nnn)) ∧
    ((s.params.jumpReg = .v0 → off = s.reg 0) →
      (s.params.jumpReg = .vx → off = s.reg (decodeFields (packNnn 0xB nnn)).x) →
      (pcLegal s.params (nnn.toNat + off.toNat) = true →
        ∃ t, exec (.jpV0 nnn) s = .next t ∧ s.onlyRegs t [] (nnn.toNat + off.toNat)) ∧
      s.pcTraps (.jpV0 nnn) (nnn.toNat + off.toNat))

/-- 3xkk SE and 4xkk SNE (40_control_flow R104, R105): 4 when the condition holds, 2 otherwise. -/
def Obligations.ByteSkipsAdvanceByFourOrTwo : Prop :=
  ∀ (x : Nibble) (kk : Byte) (s : State),
    (∀ strict, dispatch strict (packXKk 0x3 x kk) = .ok (.seByte x kk) ∧
      dispatch strict (packXKk 0x4 x kk) = .ok (.sneByte x kk)) ∧
    (∀ target, target = (if s.reg x = kk then s.pc.toNat + 4 else s.pc.toNat + 2) →
      (pcLegal s.params target = true → ∃ t, exec (.seByte x kk) s = .next t ∧ s.onlyRegs t [] target) ∧
      s.pcTraps (.seByte x kk) target) ∧
    (∀ target, target = (if s.reg x ≠ kk then s.pc.toNat + 4 else s.pc.toNat + 2) →
      (pcLegal s.params target = true → ∃ t, exec (.sneByte x kk) s = .next t ∧ s.onlyRegs t [] target) ∧
      s.pcTraps (.sneByte x kk) target)

/-- 5xy0 SE and 9xy0 SNE (40_control_flow R106, R107), whatever the low nibble is while DECODE_STRICT = false. -/
def Obligations.RegisterSkipsAdvanceByFourOrTwo : Prop :=
  ∀ (x y n : Nibble) (s : State),
    (∀ strict, (strict = true → n = 0) →
      dispatch strict (packXYN 0x5 x y n) = .ok (.seReg x y n) ∧
      dispatch strict (packXYN 0x9 x y n) = .ok (.sneReg x y n)) ∧
    (∀ target, target = (if s.reg x = s.reg y then s.pc.toNat + 4 else s.pc.toNat + 2) →
      (pcLegal s.params target = true → ∃ t, exec (.seReg x y n) s = .next t ∧ s.onlyRegs t [] target) ∧
      s.pcTraps (.seReg x y n) target) ∧
    (∀ target, target = (if s.reg x ≠ s.reg y then s.pc.toNat + 4 else s.pc.toNat + 2) →
      (pcLegal s.params target = true → ∃ t, exec (.sneReg x y n) s = .next t ∧ s.onlyRegs t [] target) ∧
      s.pcTraps (.sneReg x y n) target)

/-! ### Register arithmetic and logic -/

/-- 6xkk LD Vx, byte (41_alu R121). -/
def Obligations.LdByteLoadsTheImmediate : Prop :=
  ∀ (x : Nibble) (kk : Byte) (s : State),
    (∀ strict, dispatch strict (packXKk 0x6 x kk) = .ok (.ldByte x kk)) ∧
    (pcLegal s.params (s.pc.toNat + 2) = true →
      ∃ t, exec (.ldByte x kk) s = .next t ∧ t.reg x = kk ∧ s.onlyRegs t [x] (s.pc.toNat + 2)) ∧
    s.pcTraps (.ldByte x kk) (s.pc.toNat + 2)

/-- 7xkk ADD Vx, byte (41_alu R122): modulo 256, `VF` unchanged unless it is the destination. -/
def Obligations.AddByteWrapsWithoutCarry : Prop :=
  ∀ (x : Nibble) (kk : Byte) (s : State),
    (∀ strict, dispatch strict (packXKk 0x7 x kk) = .ok (.addByte x kk)) ∧
    (pcLegal s.params (s.pc.toNat + 2) = true →
      ∃ t, exec (.addByte x kk) s = .next t ∧ (t.reg x).toNat = ((s.reg x).toNat + kk.toNat) % 256 ∧
        s.onlyRegs t [x] (s.pc.toNat + 2)) ∧
    s.pcTraps (.addByte x kk) (s.pc.toNat + 2)

/-- 8xy0 LD Vx, Vy (41_alu R123). -/
def Obligations.LdRegCopies : Prop :=
  ∀ (x y : Nibble) (s : State),
    (∀ strict, dispatch strict (packXYN 0x8 x y 0x0) = .ok (.ldReg x y)) ∧
    (pcLegal s.params (s.pc.toNat + 2) = true →
      ∃ t, exec (.ldReg x y) s = .next t ∧ t.reg x = s.reg y ∧ s.onlyRegs t [x] (s.pc.toNat + 2)) ∧
    s.pcTraps (.ldReg x y) (s.pc.toNat + 2)

/-- 8xy1 OR, 8xy2 AND, 8xy3 XOR (41_alu R124, R125, R126), for both values of LOGIC_VF. -/
def Obligations.LogicCombinesTheRegisters : Prop :=
  ∀ (x y : Nibble) (s : State),
    (∀ strict, dispatch strict (packXYN 0x8 x y 0x1) = .ok (.orReg x y) ∧
      dispatch strict (packXYN 0x8 x y 0x2) = .ok (.andReg x y) ∧
      dispatch strict (packXYN 0x8 x y 0x3) = .ok (.xorReg x y)) ∧
    (pcLegal s.params (s.pc.toNat + 2) = true →
      (∃ t, exec (.orReg x y) s = .next t ∧ s.logicResult t x (s.reg x ||| s.reg y)) ∧
      (∃ t, exec (.andReg x y) s = .next t ∧ s.logicResult t x (s.reg x &&& s.reg y)) ∧
      (∃ t, exec (.xorReg x y) s = .next t ∧ s.logicResult t x (s.reg x ^^^ s.reg y))) ∧
    s.pcTraps (.orReg x y) (s.pc.toNat + 2) ∧
    s.pcTraps (.andReg x y) (s.pc.toNat + 2) ∧
    s.pcTraps (.xorReg x y) (s.pc.toNat + 2)

/-- 8xy4 ADD Vx, Vy (41_alu R127): the sum modulo 256, then `VF` the carry of the sum before truncation. -/
def Obligations.AddRegSetsTheCarry : Prop :=
  ∀ (x y : Nibble) (s : State),
    (∀ strict, dispatch strict (packXYN 0x8 x y 0x4) = .ok (.addReg x y)) ∧
    (pcLegal s.params (s.pc.toNat + 2) = true →
      ∃ t, exec (.addReg x y) s = .next t ∧
        s.flagResult t x (((s.reg x).toNat + (s.reg y).toNat) % 256) ((s.reg x).toNat + (s.reg y).toNat > 255)) ∧
    s.pcTraps (.addReg x y) (s.pc.toNat + 2)

/-- 8xy5 SUB and 8xy7 SUBN (41_alu R128, R130): the difference modulo 256, then `VF` the not-borrow. -/
def Obligations.SubtractionsSetNotBorrow : Prop :=
  ∀ (x y : Nibble) (s : State) (a b : Nat), a = (s.reg x).toNat → b = (s.reg y).toNat →
    (∀ strict, dispatch strict (packXYN 0x8 x y 0x5) = .ok (.sub x y) ∧
      dispatch strict (packXYN 0x8 x y 0x7) = .ok (.subn x y)) ∧
    (pcLegal s.params (s.pc.toNat + 2) = true →
      (∃ t, exec (.sub x y) s = .next t ∧ s.flagResult t x ((((a : Int) - b) % 256).toNat) (a ≥ b)) ∧
      (∃ t, exec (.subn x y) s = .next t ∧ s.flagResult t x ((((b : Int) - a) % 256).toNat) (b ≥ a))) ∧
    s.pcTraps (.sub x y) (s.pc.toNat + 2) ∧ s.pcTraps (.subn x y) (s.pc.toNat + 2)

/-- 8xy6 SHR and 8xyE SHL (41_alu R129, R131), for both values of SHIFT_SRC: the shift by one, then `VF` the bit shifted
out. -/
def Obligations.ShiftsMoveOneBitIntoTheFlag : Prop :=
  ∀ (x y : Nibble) (s : State) (src : Nat),
    (s.params.shiftSrc = .vx → src = (s.reg x).toNat) → (s.params.shiftSrc = .vy → src = (s.reg y).toNat) →
    (∀ strict, dispatch strict (packXYN 0x8 x y 0x6) = .ok (.shr x y) ∧
      dispatch strict (packXYN 0x8 x y 0xE) = .ok (.shl x y)) ∧
    (pcLegal s.params (s.pc.toNat + 2) = true →
      (∃ t, exec (.shr x y) s = .next t ∧ s.flagResult t x (src / 2) (src % 2 = 1)) ∧
      (∃ t, exec (.shl x y) s = .next t ∧ s.flagResult t x (2 * src % 256) (src / 128 = 1))) ∧
    s.pcTraps (.shr x y) (s.pc.toNat + 2) ∧ s.pcTraps (.shl x y) (s.pc.toNat + 2)

/-- Cxkk RND Vx, byte (41_alu R132): the draw masked by `kk`, so no bit outside `kk` is ever set. The draw is the free
value `Config.draw8` of the model's counter (log 2): the statement holds whatever it is. -/
def Obligations.RndMasksAFreeByte : Prop :=
  ∀ (x : Nibble) (kk : Byte) (s : State),
    (∀ strict, dispatch strict (packXKk 0xC x kk) = .ok (.rnd x kk)) ∧
    (pcLegal s.params (s.pc.toNat + 2) = true →
      ∃ t, exec (.rnd x kk) s = .next t ∧ t.reg x = Config.draw8 s.draws &&& kk ∧ t.reg x &&& ~~~kk = 0 ∧
        (kk = 0 → t.reg x = 0) ∧ (kk = 0xFF → t.reg x = Config.draw8 s.draws) ∧ t.draws = s.draws + 1 ∧
        s.onlyRegs { t with draws := s.draws } [x] (s.pc.toNat + 2)) ∧
    s.pcTraps (.rnd x kk) (s.pc.toNat + 2)

/-! ### Index register and memory -/

/-- Annn LD I, addr (42_index_memory R140). -/
def Obligations.LdILoadsTheAddress : Prop :=
  ∀ (nnn : Addr) (s : State),
    (∀ strict, dispatch strict (packNnn 0xA nnn) = .ok (.ldI nnn)) ∧
    (pcLegal s.params (s.pc.toNat + 2) = true →
      ∃ t, exec (.ldI nnn) s = .next t ∧ t.i.toNat = nnn.toNat ∧
        s.onlyRegs (t.setI s.i) [] (s.pc.toNat + 2)) ∧
    s.pcTraps (.ldI nnn) (s.pc.toNat + 2)

/-- Fx1E ADD I, Vx (42_index_memory R141): modulo 2^16, no fault above 0xFFF, `VF` not changed. -/
def Obligations.AddIWrapsAtSixteenBits : Prop :=
  ∀ (x : Nibble) (s : State),
    (∀ strict, dispatch strict (packXKk 0xF x 0x1E) = .ok (.addIVx x)) ∧
    (pcLegal s.params (s.pc.toNat + 2) = true →
      ∃ t, exec (.addIVx x) s = .next t ∧ t.i.toNat = (s.i.toNat + (s.reg x).toNat) % 65536 ∧
        s.onlyRegs (t.setI s.i) [] (s.pc.toNat + 2)) ∧
    s.pcTraps (.addIVx x) (s.pc.toNat + 2)

/-- Fx29 LD F, Vx (42_index_memory R142), for both values of FONT_DIGIT. -/
def Obligations.LdFPointsAtTheGlyph : Prop :=
  ∀ (x : Nibble) (s : State) (d : Nat),
    (s.params.fontDigit = .lowNibble → d = (s.reg x).toNat % 16) →
    (s.params.fontDigit = .full → d = (s.reg x).toNat) →
    (∀ strict, dispatch strict (packXKk 0xF x 0x29) = .ok (.ldFVx x)) ∧
    (pcLegal s.params (s.pc.toNat + 2) = true →
      ∃ t, exec (.ldFVx x) s = .next t ∧ t.i.toNat = 5 * d ∧
        s.onlyRegs (t.setI s.i) [] (s.pc.toNat + 2)) ∧
    s.pcTraps (.ldFVx x) (s.pc.toNat + 2)

/-- Fx33 LD B, Vx (42_index_memory R143): the three digits at `I`, `I + 1`, `I + 2`, every other byte and `I` as before;
the memory check before the pc check and before any write. -/
def Obligations.BcdStoresThreeDigits : Prop :=
  ∀ (x : Nibble) (s : State),
    (∀ strict, dispatch strict (packXKk 0xF x 0x33) = .ok (.ldBVx x)) ∧
    (s.i.toNat + 2 > 0xFFF →
      exec (.ldBVx x) s = .next (s.faulted (.memoryOutOfBounds (max s.i.toNat 0x1000)))) ∧
    (s.i.toNat + 2 ≤ 0xFFF →
      (pcLegal s.params (s.pc.toNat + 2) = true →
        ∃ t, exec (.ldBVx x) s = .next t ∧
          (t.mem.get s.i.toNat).toNat = (s.reg x).toNat / 100 ∧
          (t.mem.get (s.i.toNat + 1)).toNat = (s.reg x).toNat / 10 % 10 ∧
          (t.mem.get (s.i.toNat + 2)).toNat = (s.reg x).toNat % 10 ∧
          s.memKeptOutside t s.i.toNat 3 ∧
          s.onlyRegs (t.setMem s.mem) [] (s.pc.toNat + 2)) ∧
      s.pcTraps (.ldBVx x) (s.pc.toNat + 2))

/-- Fx55 LD [I], Vx (42_index_memory R144, R146): `V[0..x]` at `I` upward, every other byte as before, `I` advanced by
x + 1; the memory check before the pc check and before any write. -/
def Obligations.StoreRegistersAdvancesIndex : Prop :=
  ∀ (x : Nibble) (s : State),
    (∀ strict, dispatch strict (packXKk 0xF x 0x55) = .ok (.ldMemVx x)) ∧
    (s.i.toNat + x.toNat > 0xFFF →
      exec (.ldMemVx x) s = .next (s.faulted (.memoryOutOfBounds (max s.i.toNat 0x1000)))) ∧
    (s.i.toNat + x.toNat ≤ 0xFFF →
      (pcLegal s.params (s.pc.toNat + 2) = true →
        ∃ t, exec (.ldMemVx x) s = .next t ∧
          (∀ j : Nibble, j.toNat ≤ x.toNat → t.mem.get (s.i.toNat + j.toNat) = s.reg j) ∧
          s.memKeptOutside t s.i.toNat (x.toNat + 1) ∧
          t.i.toNat = s.i.toNat + x.toNat + 1 ∧
          s.onlyRegs ((t.setMem s.mem).setI s.i) [] (s.pc.toNat + 2)) ∧
      s.pcTraps (.ldMemVx x) (s.pc.toNat + 2))

/-- Fx65 LD Vx, [I] (42_index_memory R145, R146): the bytes at `I` upward into `V[0..x]`, every other register as before,
`I` advanced by x + 1; the memory check before the pc check and before any write. -/
def Obligations.LoadRegistersAdvancesIndex : Prop :=
  ∀ (x : Nibble) (s : State),
    (∀ strict, dispatch strict (packXKk 0xF x 0x65) = .ok (.ldVxMem x)) ∧
    (s.i.toNat + x.toNat > 0xFFF →
      exec (.ldVxMem x) s = .next (s.faulted (.memoryOutOfBounds (max s.i.toNat 0x1000)))) ∧
    (s.i.toNat + x.toNat ≤ 0xFFF →
      (pcLegal s.params (s.pc.toNat + 2) = true →
        ∃ t, exec (.ldVxMem x) s = .next t ∧
          (∀ j : Nibble, j.toNat ≤ x.toNat → t.reg j = s.mem.get (s.i.toNat + j.toNat)) ∧
          (∀ j : Nibble, x.toNat < j.toNat → t.reg j = s.reg j) ∧
          t.i.toNat = s.i.toNat + x.toNat + 1 ∧
          s.onlyRegs ((t.setRegs s.v).setI s.i) [] (s.pc.toNat + 2)) ∧
      s.pcTraps (.ldVxMem x) (s.pc.toNat + 2))

/-! ### Timers and keys -/

/-- Fx07, Fx15, Fx18 (43_timers_keys R160, R161, R162): the timer transfers; a write of `ST` queues no audio. -/
def Obligations.TimerTransfersCopyTheByte : Prop :=
  ∀ (x : Nibble) (s : State),
    (∀ strict, dispatch strict (packXKk 0xF x 0x07) = .ok (.ldVxDt x) ∧
      dispatch strict (packXKk 0xF x 0x15) = .ok (.ldDtVx x) ∧
      dispatch strict (packXKk 0xF x 0x18) = .ok (.ldStVx x)) ∧
    (pcLegal s.params (s.pc.toNat + 2) = true →
      (∃ t, exec (.ldVxDt x) s = .next t ∧ t.reg x = s.dt ∧ s.onlyRegs t [x] (s.pc.toNat + 2)) ∧
      (∃ t, exec (.ldDtVx x) s = .next t ∧ t.dt = s.reg x ∧
        s.onlyRegs (t.setDt s.dt) [] (s.pc.toNat + 2)) ∧
      (∃ t, exec (.ldStVx x) s = .next t ∧ t.st = s.reg x ∧
        s.onlyRegs (t.setSt s.st) [] (s.pc.toNat + 2))) ∧
    s.pcTraps (.ldVxDt x) (s.pc.toNat + 2) ∧
    s.pcTraps (.ldDtVx x) (s.pc.toNat + 2) ∧
    s.pcTraps (.ldStVx x) (s.pc.toNat + 2)

/-- Ex9E SKP and ExA1 SKNP (43_timers_keys R163, R164), for both values of KEY_OOR: the key index check before the pc
check. -/
def Obligations.KeySkipsTestTheKeyLevel : Prop :=
  ∀ (x : Nibble) (s : State),
    (∀ strict, dispatch strict (packXKk 0xE x 0x9E) = .ok (.skp x) ∧
      dispatch strict (packXKk 0xE x 0xA1) = .ok (.sknp x)) ∧
    (s.params.keyOor = .fault → (s.reg x).toNat > 15 →
      exec (.skp x) s = .next (s.faulted (.keyIndexOutOfRange (s.reg x))) ∧
      exec (.sknp x) s = .next (s.faulted (.keyIndexOutOfRange (s.reg x)))) ∧
    (∀ k target other : Nat,
      ((s.reg x).toNat ≤ 15 ∧ k = (s.reg x).toNat) ∨
        (s.params.keyOor = .lowNibble ∧ (s.reg x).toNat > 15 ∧ k = (s.reg x).toNat % 16) →
      target = (if s.key k then s.pc.toNat + 4 else s.pc.toNat + 2) →
      other = (if s.key k then s.pc.toNat + 2 else s.pc.toNat + 4) →
      (pcLegal s.params target = true → ∃ t, exec (.skp x) s = .next t ∧ s.onlyRegs t [] target) ∧
      s.pcTraps (.skp x) target ∧
      (pcLegal s.params other = true → ∃ t, exec (.sknp x) s = .next t ∧ s.onlyRegs t [] other) ∧
      s.pcTraps (.sknp x) other)

/-- Fx0A LD Vx, K (43_timers_keys R165): the lowest pressed key is latched; with none pressed only `W` and `WX` change,
at any `pc`, and doing it again changes nothing. -/
def Obligations.WaitForKeyLatchesTheLowest : Prop :=
  ∀ (x : Nibble) (s : State),
    (∀ strict, dispatch strict (packXKk 0xF x 0x0A) = .ok (.ldVxK x)) ∧
    (∀ k, k < 16 → s.key k = true → (∀ j, j < k → s.key j = false) →
      (pcLegal s.params (s.pc.toNat + 2) = true →
        ∃ t, exec (.ldVxK x) s = .next t ∧ (t.reg x).toNat = k ∧ t.waiting = false ∧
          s.onlyRegs (t.setWait s.waiting t.waitReg) [x] (s.pc.toNat + 2)) ∧
      s.pcTraps (.ldVxK x) (s.pc.toNat + 2)) ∧
    ((∀ k, k < 16 → s.key k = false) →
      ∃ t, exec (.ldVxK x) s = .next t ∧ t.waiting = true ∧ t.waitReg = x ∧
        s.onlyRegs (t.setWait s.waiting s.waitReg) [] s.pc.toNat ∧
        exec (.ldVxK x) t = .next t)

/-! ### Display -/

/-- 00E0 CLS (44_display R180): every cell 0 and nothing else, `VF` not changed. -/
def Obligations.ClsClearsTheDisplay : Prop :=
  ∀ (x : Nibble) (s : State),
    (∀ strict, (strict = true → x = 0) → dispatch strict (packXKk 0x0 x 0xE0) = .ok (.cls x)) ∧
    (pcLegal s.params (s.pc.toNat + 2) = true →
      ∃ t, exec (.cls x) s = .next t ∧ (∀ px py, px < 64 → py < 32 → t.disp.cell px py = false) ∧
        s.onlyRegs (t.setDisp s.disp) [] (s.pc.toNat + 2)) ∧
    s.pcTraps (.cls x) (s.pc.toNat + 2)

/-- Dxyn DRW (44_display R182, R183, and the operation of R181), for both values of DRAW_OOB: the set bits are XORed, `VF` is the collision
with the display before, off-screen bits fault or are skipped, and the checks come in the order memory, display, pc. -/
def Obligations.DrawXorsTheSprite : Prop :=
  ∀ (x y n : Nibble) (s : State),
    (∀ strict, dispatch strict (packXYN 0xD x y n) = .ok (.drw x y n)) ∧
    (0 < n.toNat → s.i.toNat + n.toNat - 1 > 0xFFF →
      exec (.drw x y n) s = .next (s.faulted (.memoryOutOfBounds (max s.i.toNat 0x1000)))) ∧
    ((0 < n.toNat → s.i.toNat + n.toNat - 1 ≤ 0xFFF) →
      (∀ px py, s.params.drawOob = .fault → s.spriteBit x y n px py → (px ≥ 64 ∨ py ≥ 32) →
        (∀ qx qy, s.spriteBit x y n qx qy → (qx ≥ 64 ∨ qy ≥ 32) → py < qy ∨ (py = qy ∧ px ≤ qx)) →
        exec (.drw x y n) s = .next (s.faulted (.displayOutOfBounds px py))) ∧
      ((∀ px py, s.params.drawOob = .fault → s.spriteBit x y n px py → px < 64 ∧ py < 32) →
        (pcLegal s.params (s.pc.toNat + 2) = true →
          ∃ t, exec (.drw x y n) s = .next t ∧
            (∀ px py, px < 64 → py < 32 →
              (s.spriteBit x y n px py → t.disp.cell px py = !s.disp.cell px py) ∧
              (¬ s.spriteBit x y n px py → t.disp.cell px py = s.disp.cell px py)) ∧
            ((∃ px py, px < 64 ∧ py < 32 ∧ s.spriteBit x y n px py ∧ s.disp.cell px py = true) → t.reg 15 = 1) ∧
            ((∀ px py, px < 64 → py < 32 → s.spriteBit x y n px py → s.disp.cell px py = false) → t.reg 15 = 0) ∧
            s.onlyRegs (t.setDisp s.disp) [15] (s.pc.toNat + 2)) ∧
        s.pcTraps (.drw x y n) (s.pc.toNat + 2)))

/-! ### Several instructions -/

/-- A call followed by a return restores `pc` to the instruction after the call and `sp` to its value before it; the
entry the call wrote stays as a stale `pc + 2` and every other entry is as before (40_control_flow R100, 10_state R27). -/
def Obligations.CallThenRetComesBack : Prop :=
  ∀ (nnn : Addr) (x : Nibble) (s : State), s.stackInv → s.sp < s.params.stackDepth →
    pcLegal s.params nnn.toNat = true → pcLegal s.params (s.pc.toNat + 2) = true →
    ∃ t u, exec (.call nnn) s = .next t ∧ exec (.ret x) t = .next u ∧
      u.pc.toNat = s.pc.toNat + 2 ∧ u.sp = s.sp ∧
      u.stack[s.sp]? = some (s.pc + 2) ∧ (∀ j, j ≠ s.sp → u.stack[j]? = s.stack[j]?) ∧
      s.onlyRegs { u with stack := s.stack } [] (s.pc.toNat + 2)

/-- Fx55 and Fx65 (90_conflicts C7): with `I` set back to its first value the registers are restored and `I` ends at
I0 + x + 1; back to back, `I` ends at I0 + 2(x + 1) and the registers hold the bytes above the stored ones. -/
def Obligations.StoreThenLoadFollowsConflictSeven : Prop :=
  ∀ (x : Nibble) (s t : State), s.i.toNat + x.toNat ≤ 0xFFF → s.faultLatch = none →
    exec (.ldMemVx x) s = .next t → t.faultLatch = none →
    (∀ r : State, r.mem = t.mem → r.i = s.i → pcLegal r.params (r.pc.toNat + 2) = true →
      ∃ u, exec (.ldVxMem x) r = .next u ∧ (∀ j : Nibble, j.toNat ≤ x.toNat → u.reg j = s.reg j) ∧
        u.i.toNat = s.i.toNat + x.toNat + 1) ∧
    (s.i.toNat + 2 * x.toNat + 1 ≤ 0xFFF → pcLegal t.params (t.pc.toNat + 2) = true →
      ∃ u, exec (.ldVxMem x) t = .next u ∧
        (∀ j : Nibble, j.toNat ≤ x.toNat → u.reg j = s.mem.get (s.i.toNat + x.toNat + 1 + j.toNat)) ∧
        u.i.toNat = s.i.toNat + 2 * (x.toNat + 1))

/-- The same sprite drawn twice at the same place restores the display, and the second draw sets `VF` exactly when some
set bit of the sprite landed on a cell that was 0 before the first draw (44_display R181; log 18: the rule's corner line
says less exactly that the second draw sets `VF` whenever the sprite has a set bit). -/
def Obligations.DrawingTwiceRestoresTheDisplay : Prop :=
  ∀ (x y n : Nibble) (s t u : State), x ≠ 15 → y ≠ 15 → s.faultLatch = none →
    exec (.drw x y n) s = .next t → t.faultLatch = none →
    exec (.drw x y n) t = .next u → u.faultLatch = none →
    u.disp = s.disp ∧
    ((∃ px py, px < 64 ∧ py < 32 ∧ s.spriteBit x y n px py ∧ s.disp.cell px py = false) → u.reg 15 = 1) ∧
    ((∀ px py, px < 64 → py < 32 → s.spriteBit x y n px py → s.disp.cell px py = true) → u.reg 15 = 0)

/-- With no key pressed, any number of steps at an Fx0A leave the same state, with `pc` unchanged; when a key is pressed
the next step latches it and advances `pc` by 2 (43_timers_keys R165, R166). -/
def Obligations.WaitForKeySpinsUntilAKey : Prop :=
  ∀ (x : Nibble) (s : State) (k : Nat), s.faultLatch = none → s.fetch = some (packXKk 0xF x 0x0A) →
    (∀ j, j < 16 → s.key j = false) →
    Host.Core.run Sys2Proof.core (k + 1) s = .next (s.setWait true x) ∧
    ∀ key, key < 16 → pcLegal s.params (s.pc.toNat + 2) = true →
      ∃ u, step (State.setKey key true (s.setWait true x)) = .next u ∧
        (u.reg x).toNat = key ∧ u.waiting = false ∧ u.pc.toNat = s.pc.toNat + 2

/-- A store is seen by the very next fetch: after an Fx55 or an Fx33 the next word is read from the stored bytes where
they cover it, and from the old memory elsewhere (20_memory R64, 70_reset_and_hazards R261). -/
def Obligations.StoreIsSeenByTheNextFetch : Prop :=
  ∀ (x : Nibble) (s t : State) (newByte : Nat → Byte), s.faultLatch = none → step s = .next t → t.faultLatch = none →
    (s.fetch = some (packXKk 0xF x 0x55) →
      (∀ a, (∀ j : Nibble, j.toNat ≤ x.toNat → a = s.i.toNat + j.toNat → newByte a = s.reg j) ∧
        (a < s.i.toNat ∨ s.i.toNat + x.toNat < a → newByte a = s.mem.get a)) →
      t.pc.toNat ≤ 0xFFE → t.fetch = some (wordOfBytes (newByte t.pc.toNat) (newByte (t.pc.toNat + 1)))) ∧
    (s.fetch = some (packXKk 0xF x 0x33) →
      (newByte s.i.toNat).toNat = (s.reg x).toNat / 100 →
      (newByte (s.i.toNat + 1)).toNat = (s.reg x).toNat / 10 % 10 →
      (newByte (s.i.toNat + 2)).toNat = (s.reg x).toNat % 10 →
      (∀ a, a < s.i.toNat ∨ s.i.toNat + 2 < a → newByte a = s.mem.get a) →
      t.pc.toNat ≤ 0xFFE → t.fetch = some (wordOfBytes (newByte t.pc.toNat) (newByte (t.pc.toNat + 1))))

/-- A parked machine stays as it is: every further step changes nothing (60_exceptions R244). -/
def Obligations.ParkedMachineStaysParked : Prop :=
  ∀ (s : State) (k : Nat), s.faultLatch = none → s.pcInv → s.parked →
    Host.Core.run Sys2Proof.core k s = .next s

/-! ### Scheduler, audio and host interface -/

/-- `tick_frame` (60_exceptions R211): the frames due, the budget, the timers, the audio appended, nothing else; on a
halted machine (0, 0) and no change. -/
def Obligations.TickFrameReconciles : Prop :=
  ∀ (r : Config.Rates) (elapsed : Rat) (s : State),
    (s.faultLatch ≠ none → s.tickFrame r elapsed = (⟨0, 0⟩, s)) ∧
    (s.faultLatch = none → 0 ≤ elapsed → ∀ total n t : Nat,
      (total : Int) = (elapsed * 60).floor → n = total - s.framesProcessed → t = min s.st.toNat n →
      ∃ u, s.tickFrame r elapsed = (⟨n, r.ipf * max n 1⟩, u) ∧
        u.framesProcessed = s.framesProcessed + n ∧
        u.dt.toNat = s.dt.toNat - min s.dt.toNat n ∧
        u.st.toNat = s.st.toNat - t ∧
        (s.st = 0 → u.queue = s.queue) ∧
        (s.st ≠ 0 → u.queue = s.queue ++ (if t > 0 then [⟨t * r.spf, true⟩] else []) ++
          (if n - t > 0 then [⟨(n - t) * r.spf, false⟩] else [])) ∧
        { u with framesProcessed := s.framesProcessed, dt := s.dt, st := s.st, queue := s.queue } = s)

/-- The timers fall by one a frame down to 0, however the frames are split over reconciliations: `n` frames and then `m`
frames are `n + m` frames, and from some frame on the timer is 0 for good (60_exceptions R212). -/
def Obligations.TimersCountFramesDownToZero : Prop :=
  ∀ (s : State) (spf n m : Nat),
    ((s.reconcile spf n).reconcile spf m).dt = (s.reconcile spf (n + m)).dt ∧
    ((s.reconcile spf n).reconcile spf m).st = (s.reconcile spf (n + m)).st ∧
    ((s.reconcile spf n).reconcile spf m).framesProcessed = (s.reconcile spf (n + m)).framesProcessed ∧
    (s.dt.toNat ≤ n → (s.reconcile spf n).dt = 0) ∧
    (s.st.toNat ≤ n → (s.reconcile spf n).st = 0) ∧
    (1 ≤ spf → ∀ g ∈ toneSegments spf s.st n, 1 ≤ g.count) ∧
    (s.st ≠ 0 → ((toneSegments spf s.st n).map (fun g => g.count)).sum = n * spf)

/-- The batch of the main loop (60_exceptions R220, R221): its number counts the steps it ran and its state is the one
after them; it ran at most `budget`, each from a state that was neither halted nor gated, and fewer only because the state
it ends in is halted or gated. The gate is closed exactly while the machine waits with no key pressed. -/
def Obligations.BatchUsesItsBudgetUnlessHaltedOrWaiting : Prop :=
  ∀ (budget : Nat) (s : State),
    Host.Core.run Sys2Proof.core (s.runBatch budget).1 s = .next (s.runBatch budget).2 ∧
    (s.runBatch budget).1 ≤ budget ∧
    (∀ k, k < (s.runBatch budget).1 → ∃ u : State, Host.Core.run Sys2Proof.core k s = .next u ∧
      u.faultLatch = none ∧ u.gate = false) ∧
    ((s.runBatch budget).1 < budget →
      (s.runBatch budget).2.halted ∨ (s.runBatch budget).2.gate = true) ∧
    (s.gate = true → s.runBatch budget = (0, s)) ∧
    (s.gate = true ↔ s.waiting = true ∧ ∀ k, k < 16 → s.key k = false)

/-- `set_key` writes that key alone; an index above 15 has no effect; `get_display` gives the display
(60_exceptions R241). -/
def Obligations.SetKeyWritesOneKey : Prop :=
  ∀ (index : Nat) (pressed : Bool) (s : State),
    (∀ k, (State.setKey index pressed s).key k = if k = index ∧ index ≤ 15 then pressed else s.key k) ∧
    (15 < index → setKeyRefused index = true ∧ State.setKey index pressed s = s) ∧
    { State.setKey index pressed s with keys := s.keys } = s

/-- `fill_audio` is a FIFO (60_exceptions R230, R231): it gives exactly `len` samples, the j-th one the tone sample of its
phase when the j-th queued sample is a tone and silence otherwise, silence once the queue is used up; what is left in
the queue is what was not emitted, the first segments removed and at most the next one shortened in place; the phase
counts every sample; nothing else changes. -/
def Obligations.FillAudioDrainsTheQueueInOrder : Prop :=
  ∀ (σ : Type) (wave : Config.Waveform σ) (len : Nat) (s : State),
    (s.fillAudio wave len).1 = (List.range len).map (fun j =>
      if (queueSamples s.queue)[j]? = some true then wave.tone (s.phase + j) else wave.silence) ∧
    queueSamples (s.fillAudio wave len).2.queue = (queueSamples s.queue).drop len ∧
    (∃ k, (s.fillAudio wave len).2.queue = s.queue.drop k ∨
      ∃ g rest m, s.queue.drop k = g :: rest ∧ 0 < m ∧ m < g.count ∧
        (s.fillAudio wave len).2.queue = { g with count := g.count - m } :: rest) ∧
    (s.fillAudio wave len).2.phase = s.phase + len ∧
    { (s.fillAudio wave len).2 with queue := s.queue, phase := s.phase } = s ∧
    ((∀ g ∈ s.queue, 1 ≤ g.count) → ∀ g ∈ (s.fillAudio wave len).2.queue, 1 ≤ g.count)

/-- `load` (70_reset_and_hazards R250; 10_state R39): an image longer than 3584 bytes is refused; any other gives every
piece of state its value after load, whatever the state was. -/
def Obligations.LoadGivesEveryPieceItsValue : Prop :=
  ∀ (image : List Byte) (s : State),
    (image.length > 3584 → s.load image = none) ∧
    (image.length ≤ 3584 → ∃ t, s.load image = some t ∧
      (∀ (a : Nat) (h : a < 80), t.mem.get a = s.params.font[a]) ∧
      (∀ a, 80 ≤ a → a < 0x200 → t.mem.get a = 0) ∧
      (∀ (a : Nat) (h : a < image.length), t.mem.get (0x200 + a) = image[a]) ∧
      (∀ a, 0x200 + image.length ≤ a → a ≤ 0xFFF → t.mem.get a = 0) ∧
      (∀ x, t.reg x = 0) ∧ t.i = 0 ∧ t.pc = 0x200 ∧
      t.stack = List.replicate s.params.stackDepth 0 ∧ t.sp = 0 ∧ t.dt = 0 ∧ t.st = 0 ∧
      (∀ k, t.key k = false) ∧ (∀ px py, t.disp.cell px py = false) ∧
      t.waiting = false ∧ t.waitReg = 0 ∧ t.faultLatch = none ∧
      t.framesProcessed = 0 ∧ t.queue = [] ∧ t.phase = 0)

/-- Reset: the state after `load` of the empty image; every piece of state at the value the spec gives it, and the first
step faults IllegalInstruction on the word 0x0000 (10_state R39, 70_reset_and_hazards R254). -/
def Obligations.ResetIsLoadOfTheEmptyImage : Prop :=
  State.reset.load [] = some State.reset ∧
  State.reset.pc = 0x200 ∧ State.reset.sp = 0 ∧ State.reset.stack = List.replicate 16 0 ∧
  State.reset.fetch = some 0x0000 ∧
  step State.reset = .next { State.reset with faultLatch := some ⟨.illegalInstruction, 0x200, some 0x0000⟩ }
end

