-- ==== Sys2Proof/Laws/Decode.lean ====
section
/-! SUPPORT. The fields of the three word layouts, and the bytes of a word. -/

namespace Sys2Proof

theorem getLsbD_packXYN (f x y n : Nibble) (i : Nat) :
    (packXYN f x y n).getLsbD i =
      if i < 4 then n.getLsbD i else if i < 8 then y.getLsbD (i - 4)
      else if i < 12 then x.getLsbD (i - 8) else f.getLsbD (i - 12) := by
  show (f ++ x ++ y ++ n).getLsbD i = _
  rw [BitVec.getLsbD_append, BitVec.getLsbD_append, BitVec.getLsbD_append]
  grind

theorem getLsbD_packXKk (f x : Nibble) (kk : Byte) (i : Nat) :
    (packXKk f x kk).getLsbD i =
      if i < 8 then kk.getLsbD i else if i < 12 then x.getLsbD (i - 8) else f.getLsbD (i - 12) := by
  show (f ++ x ++ kk).getLsbD i = _
  rw [BitVec.getLsbD_append, BitVec.getLsbD_append]
  grind

theorem getLsbD_packNnn (f : Nibble) (nnn : Addr) (i : Nat) :
    (packNnn f nnn).getLsbD i = if i < 12 then nnn.getLsbD i else f.getLsbD (i - 12) := by
  show (f ++ nnn).getLsbD i = _
  rw [BitVec.getLsbD_append]

theorem decodeFields_packXYN_f (f x y n : Nibble) : (decodeFields (packXYN f x y n)).f = f := by
  apply BitVec.eq_of_getLsbD_eq; intro i hi
  simp [decodeFields, getLsbD_packXYN, hi]; grind

theorem decodeFields_packXYN_x (f x y n : Nibble) : (decodeFields (packXYN f x y n)).x = x := by
  apply BitVec.eq_of_getLsbD_eq; intro i hi
  simp [decodeFields, getLsbD_packXYN, hi]; grind

theorem decodeFields_packXYN_y (f x y n : Nibble) : (decodeFields (packXYN f x y n)).y = y := by
  apply BitVec.eq_of_getLsbD_eq; intro i hi
  simp [decodeFields, getLsbD_packXYN, hi]; grind

theorem decodeFields_packXYN_n (f x y n : Nibble) : (decodeFields (packXYN f x y n)).n = n := by
  apply BitVec.eq_of_getLsbD_eq; intro i hi
  simp [decodeFields, getLsbD_packXYN, hi]

theorem decodeFields_packXKk_f (f x : Nibble) (kk : Byte) : (decodeFields (packXKk f x kk)).f = f := by
  apply BitVec.eq_of_getLsbD_eq; intro i hi
  simp [decodeFields, getLsbD_packXKk, hi]; grind

theorem decodeFields_packXKk_x (f x : Nibble) (kk : Byte) : (decodeFields (packXKk f x kk)).x = x := by
  apply BitVec.eq_of_getLsbD_eq; intro i hi
  simp [decodeFields, getLsbD_packXKk, hi]; grind

theorem decodeFields_packXKk_kk (f x : Nibble) (kk : Byte) : (decodeFields (packXKk f x kk)).kk = kk := by
  apply BitVec.eq_of_getLsbD_eq; intro i hi
  simp [decodeFields, getLsbD_packXKk, hi]

theorem decodeFields_packNnn_f (f : Nibble) (nnn : Addr) : (decodeFields (packNnn f nnn)).f = f := by
  apply BitVec.eq_of_getLsbD_eq; intro i hi
  simp [decodeFields, getLsbD_packNnn, hi]

theorem decodeFields_packNnn_nnn (f : Nibble) (nnn : Addr) : (decodeFields (packNnn f nnn)).nnn = nnn := by
  apply BitVec.eq_of_getLsbD_eq; intro i hi
  simp [decodeFields, getLsbD_packNnn, hi]

/-- Every word is the layout f, x, y, n of its fields. -/
theorem packXYN_decodeFields (w : Word) :
    packXYN (decodeFields w).f (decodeFields w).x (decodeFields w).y (decodeFields w).n = w := by
  apply BitVec.eq_of_getLsbD_eq; intro i hi
  rw [getLsbD_packXYN]
  simp only [decodeFields, BitVec.getLsbD_extractLsb']
  grind

/-- Every word is the layout f, x, kk of its fields. -/
theorem packXKk_decodeFields (w : Word) :
    packXKk (decodeFields w).f (decodeFields w).x (decodeFields w).kk = w := by
  apply BitVec.eq_of_getLsbD_eq; intro i hi
  rw [getLsbD_packXKk]
  simp only [decodeFields, BitVec.getLsbD_extractLsb']
  grind

/-- Every word is the layout f, nnn of its fields. -/
theorem packNnn_decodeFields (w : Word) : packNnn (decodeFields w).f (decodeFields w).nnn = w := by
  apply BitVec.eq_of_getLsbD_eq; intro i hi
  rw [getLsbD_packNnn]
  simp only [decodeFields, BitVec.getLsbD_extractLsb']
  grind

/-- The two bytes of a word give the word back. -/
theorem wordOfBytes_hiByte_loByte (w : Word) : wordOfBytes (hiByte w) (loByte w) = w := by
  apply BitVec.eq_of_getLsbD_eq; intro i hi
  show (hiByte w ++ loByte w).getLsbD i = _
  rw [BitVec.getLsbD_append]
  simp only [hiByte, loByte, BitVec.getLsbD_extractLsb']
  grind

end Sys2Proof
end

