-- ==== Sys2Proof/Laws/Memory.lean ====
section
/-! SUPPORT. The laws of memory: a read after a write, and the canonical form every operation keeps. -/

namespace Sys2Proof.Machine

theorem Memory.get_unlist (m : Memory) (a b : Nat) :
    (m.unlist a).get b = if b = a then Memory.initial b else m.get b := by
  induction m with
  | nil => simp [Memory.unlist, Memory.get]
  | cons c rest ih =>
    obtain ⟨k, u⟩ := c
    unfold Memory.unlist at ih ⊢
    by_cases hk : k = a
    · subst hk
      by_cases hb : b = k <;> simp_all [Memory.get]
    · by_cases hb : b = k
      · subst hb; simp_all [Memory.get]
      · simp_all [Memory.get]

theorem Memory.get_insert (m : Memory) (a b : Nat) (v : Byte) (h : ∀ c ∈ m, c.1 ≠ a) :
    (Memory.insert a v m).get b = if b = a then v else m.get b := by
  induction m with
  | nil => by_cases hb : b = a <;> simp [Memory.insert, Memory.get, hb]
  | cons c rest ih =>
    obtain ⟨k, u⟩ := c
    have hk : k ≠ a := h (k, u) (by simp)
    have ih := ih fun d hd => h d (by simp [hd])
    unfold Memory.insert
    by_cases hlt : a < k
    · by_cases hb : b = a <;> simp [hlt, Memory.get, hb]
    · by_cases hb : b = k
      · subst hb; simp [hlt, Memory.get, hk]
      · simp [hlt, Memory.get, hb, ih]

theorem Memory.not_listed_unlist (m : Memory) (a : Nat) : ∀ c ∈ m.unlist a, c.1 ≠ a := by
  intro c hc
  simp [Memory.unlist] at hc
  exact hc.2

/-- A read after a write of one byte, in every memory: the byte written at its address, every other as before. -/
theorem Memory.get_set (m : Memory) (a b : Nat) (v : Byte) :
    (m.set a v).get b = if b = a ∧ a < 4096 then v else m.get b := by
  show _ = if b = a ∧ a < Config.memSize then v else m.get b
  unfold Memory.set
  by_cases ha : a < Config.memSize
  · by_cases hv : v = Memory.initial a
    · by_cases hb : b = a <;> simp [ha, hv, hb, Memory.get_unlist]
    · by_cases hb : b = a <;>
        simp [ha, hv, hb, Memory.get_insert _ _ _ _ (Memory.not_listed_unlist m a), Memory.get_unlist]
  · simp [ha]

/-- A read after a write of several bytes: each at its address, every other as before. -/
theorem Memory.get_setBytes (m : Memory) (a b : Nat) (bs : List Byte) :
    (m.setBytes a bs).get b =
      if a ≤ b ∧ b < 4096 then bs[b - a]?.getD (m.get b) else m.get b := by
  induction bs generalizing m a with
  | nil => simp [Memory.setBytes]
  | cons v bs ih =>
    rw [Memory.setBytes, ih, Memory.get_set]
    by_cases hb : b < 4096
    · rcases Nat.lt_trichotomy a b with h | h | h
      · have h1 : a + 1 ≤ b := h
        have h2 : a ≤ b := by omega
        have h3 : b ≠ a := by omega
        have h4 : b - a = (b - (a + 1)) + 1 := by omega
        simp [hb, h1, h2, h3, h4]
      · subst h; simp [hb]
      · have h1 : ¬ a + 1 ≤ b := by omega
        have h2 : ¬ a ≤ b := by omega
        have h3 : b ≠ a := by omega
        simp [h1, h2, h3]
    · have h3 : ¬ (b = a ∧ a < 4096) := by omega
      simp [hb, h3]

/-- A read inside the written range, below 4096. -/
theorem Memory.get_setBytes_inside (m : Memory) (a j : Nat) (bs : List Byte) (v : Byte) (hv : bs[j]? = some v)
    (h : a + j < 4096) : (m.setBytes a bs).get (a + j) = v := by
  rw [Memory.get_setBytes, if_pos ⟨by omega, h⟩, Nat.add_sub_cancel_left, hv]; rfl

/-- A read outside the written range. -/
theorem Memory.get_setBytes_outside (m : Memory) (a b : Nat) (bs : List Byte) (h : b < a ∨ a + bs.length ≤ b) :
    (m.setBytes a bs).get b = m.get b := by
  rw [Memory.get_setBytes]
  split
  · rw [List.getElem?_eq_none (by omega)]; rfl
  · rfl

@[simp] theorem Memory.length_getBytes (m : Memory) (a n : Nat) : (m.getBytes a n).length = n := by
  induction n generalizing a with
  | zero => rfl
  | succ n ih => simp [Memory.getBytes, ih]

/-- The bytes of a range are the bytes at its addresses. -/
theorem Memory.getElem_getBytes (m : Memory) (a n j : Nat) (h : j < n) :
    (m.getBytes a n)[j]? = some (m.get (a + j)) := by
  induction n generalizing a j with
  | zero => omega
  | succ n ih =>
    cases j with
    | zero => simp [Memory.getBytes]
    | succ j => simp [Memory.getBytes, ih (a + 1) j (by omega), Nat.add_assoc, Nat.add_comm 1 j]

/-- The empty list is in canonical form. -/
theorem Memory.wf_nil : Memory.wf [] := by simp [Memory.wf]

theorem Memory.wf_unlist (m : Memory) (a : Nat) (h : m.wf) : (m.unlist a).wf := by
  refine ⟨h.1.sublist List.filter_sublist, fun c hc => h.2 c ?_⟩
  exact List.mem_of_mem_filter hc

theorem Memory.mem_insert (a : Nat) (v : Byte) (m : Memory) (c : Host.Cell) :
    c ∈ Memory.insert a v m ↔ c = (a, v) ∨ c ∈ m := by
  induction m with
  | nil => simp [Memory.insert]
  | cons d rest ih =>
    unfold Memory.insert
    split
    · simp
    · simp [ih]; tauto

theorem Memory.wf_insert (m : Memory) (a : Nat) (v : Byte) (h : m.wf) (hn : ∀ c ∈ m, c.1 ≠ a)
    (ha : a < Config.memSize) (hv : v ≠ Memory.initial a) : (Memory.insert a v m).wf := by
  refine ⟨?_, ?_⟩
  · have h1 := h.1
    clear h
    induction m with
    | nil => simp [Memory.insert]
    | cons d rest ih =>
      rw [List.pairwise_cons] at h1
      have hd : d.1 ≠ a := hn d (by simp)
      unfold Memory.insert
      split
      · rename_i hlt
        rw [List.pairwise_cons, List.pairwise_cons]
        refine ⟨fun c hc => ?_, h1⟩
        rcases List.mem_cons.1 hc with rfl | hc
        · exact hlt
        · exact hlt.trans (h1.1 c hc)
      · rw [List.pairwise_cons]
        refine ⟨fun c hc => ?_, ih (fun c hc => hn c (by simp [hc])) h1.2⟩
        rcases (Memory.mem_insert a v rest c).1 hc with rfl | hc
        · show d.1 < a; omega
        · exact h1.1 c hc
  · intro c hc
    rcases (Memory.mem_insert a v m c).1 hc with rfl | hc
    · exact ⟨ha, hv⟩
    · exact h.2 c hc

/-- A write of one byte keeps the canonical form. -/
theorem Memory.wf_set (m : Memory) (a : Nat) (v : Byte) (h : m.wf) : (m.set a v).wf := by
  unfold Memory.set
  split
  · split
    · exact Memory.wf_unlist m a h
    · exact Memory.wf_insert _ a v (Memory.wf_unlist m a h) (Memory.not_listed_unlist m a) ‹_› ‹_›
  · exact h

/-- A write of several bytes keeps the canonical form. -/
theorem Memory.wf_setBytes (m : Memory) (a : Nat) (bs : List Byte) (h : m.wf) : (m.setBytes a bs).wf := by
  induction bs generalizing m a with
  | nil => exact h
  | cons b bs ih => exact ih _ _ (Memory.wf_set m a b h)

/-- `State.reset`'s memory is in canonical form. -/
theorem State.reset_mem_wf : Memory.wf State.reset.mem := Memory.wf_nil

end Sys2Proof.Machine
end

