-- ==== Sys2Proof/Laws/State.lean ====
section
/-! SUPPORT. One lemma per field per named update of State, each true by rfl, and the register laws. -/

namespace Sys2Proof.Machine

/-! ### setReg -/

theorem State.setReg_v (s : State) (x : Nibble) (b : Byte) :
    (s.setReg x b).v = s.v.set x.toNat b x.isLt := rfl

@[simp] theorem State.setReg_i (s : State) (x : Nibble) (b : Byte) :
    (s.setReg x b).i = s.i := rfl

@[simp] theorem State.setReg_pc (s : State) (x : Nibble) (b : Byte) :
    (s.setReg x b).pc = s.pc := rfl

@[simp] theorem State.setReg_stack (s : State) (x : Nibble) (b : Byte) :
    (s.setReg x b).stack = s.stack := rfl

@[simp] theorem State.setReg_sp (s : State) (x : Nibble) (b : Byte) :
    (s.setReg x b).sp = s.sp := rfl

@[simp] theorem State.setReg_dt (s : State) (x : Nibble) (b : Byte) :
    (s.setReg x b).dt = s.dt := rfl

@[simp] theorem State.setReg_st (s : State) (x : Nibble) (b : Byte) :
    (s.setReg x b).st = s.st := rfl

@[simp] theorem State.setReg_keys (s : State) (x : Nibble) (b : Byte) :
    (s.setReg x b).keys = s.keys := rfl

@[simp] theorem State.setReg_disp (s : State) (x : Nibble) (b : Byte) :
    (s.setReg x b).disp = s.disp := rfl

@[simp] theorem State.setReg_waiting (s : State) (x : Nibble) (b : Byte) :
    (s.setReg x b).waiting = s.waiting := rfl

@[simp] theorem State.setReg_waitReg (s : State) (x : Nibble) (b : Byte) :
    (s.setReg x b).waitReg = s.waitReg := rfl

@[simp] theorem State.setReg_faultLatch (s : State) (x : Nibble) (b : Byte) :
    (s.setReg x b).faultLatch = s.faultLatch := rfl

@[simp] theorem State.setReg_framesProcessed (s : State) (x : Nibble) (b : Byte) :
    (s.setReg x b).framesProcessed = s.framesProcessed := rfl

@[simp] theorem State.setReg_queue (s : State) (x : Nibble) (b : Byte) :
    (s.setReg x b).queue = s.queue := rfl

@[simp] theorem State.setReg_phase (s : State) (x : Nibble) (b : Byte) :
    (s.setReg x b).phase = s.phase := rfl

@[simp] theorem State.setReg_mem (s : State) (x : Nibble) (b : Byte) :
    (s.setReg x b).mem = s.mem := rfl

@[simp] theorem State.setReg_draws (s : State) (x : Nibble) (b : Byte) :
    (s.setReg x b).draws = s.draws := rfl

@[simp] theorem State.setReg_params (s : State) (x : Nibble) (b : Byte) :
    (s.setReg x b).params = s.params := rfl

/-! ### setRegs -/

@[simp] theorem State.setRegs_v (s : State) (v : Vector Byte 16) :
    (s.setRegs v).v = v := rfl

@[simp] theorem State.setRegs_i (s : State) (v : Vector Byte 16) :
    (s.setRegs v).i = s.i := rfl

@[simp] theorem State.setRegs_pc (s : State) (v : Vector Byte 16) :
    (s.setRegs v).pc = s.pc := rfl

@[simp] theorem State.setRegs_stack (s : State) (v : Vector Byte 16) :
    (s.setRegs v).stack = s.stack := rfl

@[simp] theorem State.setRegs_sp (s : State) (v : Vector Byte 16) :
    (s.setRegs v).sp = s.sp := rfl

@[simp] theorem State.setRegs_dt (s : State) (v : Vector Byte 16) :
    (s.setRegs v).dt = s.dt := rfl

@[simp] theorem State.setRegs_st (s : State) (v : Vector Byte 16) :
    (s.setRegs v).st = s.st := rfl

@[simp] theorem State.setRegs_keys (s : State) (v : Vector Byte 16) :
    (s.setRegs v).keys = s.keys := rfl

@[simp] theorem State.setRegs_disp (s : State) (v : Vector Byte 16) :
    (s.setRegs v).disp = s.disp := rfl

@[simp] theorem State.setRegs_waiting (s : State) (v : Vector Byte 16) :
    (s.setRegs v).waiting = s.waiting := rfl

@[simp] theorem State.setRegs_waitReg (s : State) (v : Vector Byte 16) :
    (s.setRegs v).waitReg = s.waitReg := rfl

@[simp] theorem State.setRegs_faultLatch (s : State) (v : Vector Byte 16) :
    (s.setRegs v).faultLatch = s.faultLatch := rfl

@[simp] theorem State.setRegs_framesProcessed (s : State) (v : Vector Byte 16) :
    (s.setRegs v).framesProcessed = s.framesProcessed := rfl

@[simp] theorem State.setRegs_queue (s : State) (v : Vector Byte 16) :
    (s.setRegs v).queue = s.queue := rfl

@[simp] theorem State.setRegs_phase (s : State) (v : Vector Byte 16) :
    (s.setRegs v).phase = s.phase := rfl

@[simp] theorem State.setRegs_mem (s : State) (v : Vector Byte 16) :
    (s.setRegs v).mem = s.mem := rfl

@[simp] theorem State.setRegs_draws (s : State) (v : Vector Byte 16) :
    (s.setRegs v).draws = s.draws := rfl

@[simp] theorem State.setRegs_params (s : State) (v : Vector Byte 16) :
    (s.setRegs v).params = s.params := rfl

/-! ### setPc -/

@[simp] theorem State.setPc_v (s : State) (w : Word) :
    (s.setPc w).v = s.v := rfl

@[simp] theorem State.setPc_i (s : State) (w : Word) :
    (s.setPc w).i = s.i := rfl

@[simp] theorem State.setPc_pc (s : State) (w : Word) :
    (s.setPc w).pc = w := rfl

@[simp] theorem State.setPc_stack (s : State) (w : Word) :
    (s.setPc w).stack = s.stack := rfl

@[simp] theorem State.setPc_sp (s : State) (w : Word) :
    (s.setPc w).sp = s.sp := rfl

@[simp] theorem State.setPc_dt (s : State) (w : Word) :
    (s.setPc w).dt = s.dt := rfl

@[simp] theorem State.setPc_st (s : State) (w : Word) :
    (s.setPc w).st = s.st := rfl

@[simp] theorem State.setPc_keys (s : State) (w : Word) :
    (s.setPc w).keys = s.keys := rfl

@[simp] theorem State.setPc_disp (s : State) (w : Word) :
    (s.setPc w).disp = s.disp := rfl

@[simp] theorem State.setPc_waiting (s : State) (w : Word) :
    (s.setPc w).waiting = s.waiting := rfl

@[simp] theorem State.setPc_waitReg (s : State) (w : Word) :
    (s.setPc w).waitReg = s.waitReg := rfl

@[simp] theorem State.setPc_faultLatch (s : State) (w : Word) :
    (s.setPc w).faultLatch = s.faultLatch := rfl

@[simp] theorem State.setPc_framesProcessed (s : State) (w : Word) :
    (s.setPc w).framesProcessed = s.framesProcessed := rfl

@[simp] theorem State.setPc_queue (s : State) (w : Word) :
    (s.setPc w).queue = s.queue := rfl

@[simp] theorem State.setPc_phase (s : State) (w : Word) :
    (s.setPc w).phase = s.phase := rfl

@[simp] theorem State.setPc_mem (s : State) (w : Word) :
    (s.setPc w).mem = s.mem := rfl

@[simp] theorem State.setPc_draws (s : State) (w : Word) :
    (s.setPc w).draws = s.draws := rfl

@[simp] theorem State.setPc_params (s : State) (w : Word) :
    (s.setPc w).params = s.params := rfl

/-! ### setI -/

@[simp] theorem State.setI_v (s : State) (w : Word) :
    (s.setI w).v = s.v := rfl

@[simp] theorem State.setI_i (s : State) (w : Word) :
    (s.setI w).i = w := rfl

@[simp] theorem State.setI_pc (s : State) (w : Word) :
    (s.setI w).pc = s.pc := rfl

@[simp] theorem State.setI_stack (s : State) (w : Word) :
    (s.setI w).stack = s.stack := rfl

@[simp] theorem State.setI_sp (s : State) (w : Word) :
    (s.setI w).sp = s.sp := rfl

@[simp] theorem State.setI_dt (s : State) (w : Word) :
    (s.setI w).dt = s.dt := rfl

@[simp] theorem State.setI_st (s : State) (w : Word) :
    (s.setI w).st = s.st := rfl

@[simp] theorem State.setI_keys (s : State) (w : Word) :
    (s.setI w).keys = s.keys := rfl

@[simp] theorem State.setI_disp (s : State) (w : Word) :
    (s.setI w).disp = s.disp := rfl

@[simp] theorem State.setI_waiting (s : State) (w : Word) :
    (s.setI w).waiting = s.waiting := rfl

@[simp] theorem State.setI_waitReg (s : State) (w : Word) :
    (s.setI w).waitReg = s.waitReg := rfl

@[simp] theorem State.setI_faultLatch (s : State) (w : Word) :
    (s.setI w).faultLatch = s.faultLatch := rfl

@[simp] theorem State.setI_framesProcessed (s : State) (w : Word) :
    (s.setI w).framesProcessed = s.framesProcessed := rfl

@[simp] theorem State.setI_queue (s : State) (w : Word) :
    (s.setI w).queue = s.queue := rfl

@[simp] theorem State.setI_phase (s : State) (w : Word) :
    (s.setI w).phase = s.phase := rfl

@[simp] theorem State.setI_mem (s : State) (w : Word) :
    (s.setI w).mem = s.mem := rfl

@[simp] theorem State.setI_draws (s : State) (w : Word) :
    (s.setI w).draws = s.draws := rfl

@[simp] theorem State.setI_params (s : State) (w : Word) :
    (s.setI w).params = s.params := rfl

/-! ### setDt -/

@[simp] theorem State.setDt_v (s : State) (b : Byte) :
    (s.setDt b).v = s.v := rfl

@[simp] theorem State.setDt_i (s : State) (b : Byte) :
    (s.setDt b).i = s.i := rfl

@[simp] theorem State.setDt_pc (s : State) (b : Byte) :
    (s.setDt b).pc = s.pc := rfl

@[simp] theorem State.setDt_stack (s : State) (b : Byte) :
    (s.setDt b).stack = s.stack := rfl

@[simp] theorem State.setDt_sp (s : State) (b : Byte) :
    (s.setDt b).sp = s.sp := rfl

@[simp] theorem State.setDt_dt (s : State) (b : Byte) :
    (s.setDt b).dt = b := rfl

@[simp] theorem State.setDt_st (s : State) (b : Byte) :
    (s.setDt b).st = s.st := rfl

@[simp] theorem State.setDt_keys (s : State) (b : Byte) :
    (s.setDt b).keys = s.keys := rfl

@[simp] theorem State.setDt_disp (s : State) (b : Byte) :
    (s.setDt b).disp = s.disp := rfl

@[simp] theorem State.setDt_waiting (s : State) (b : Byte) :
    (s.setDt b).waiting = s.waiting := rfl

@[simp] theorem State.setDt_waitReg (s : State) (b : Byte) :
    (s.setDt b).waitReg = s.waitReg := rfl

@[simp] theorem State.setDt_faultLatch (s : State) (b : Byte) :
    (s.setDt b).faultLatch = s.faultLatch := rfl

@[simp] theorem State.setDt_framesProcessed (s : State) (b : Byte) :
    (s.setDt b).framesProcessed = s.framesProcessed := rfl

@[simp] theorem State.setDt_queue (s : State) (b : Byte) :
    (s.setDt b).queue = s.queue := rfl

@[simp] theorem State.setDt_phase (s : State) (b : Byte) :
    (s.setDt b).phase = s.phase := rfl

@[simp] theorem State.setDt_mem (s : State) (b : Byte) :
    (s.setDt b).mem = s.mem := rfl

@[simp] theorem State.setDt_draws (s : State) (b : Byte) :
    (s.setDt b).draws = s.draws := rfl

@[simp] theorem State.setDt_params (s : State) (b : Byte) :
    (s.setDt b).params = s.params := rfl

/-! ### setSt -/

@[simp] theorem State.setSt_v (s : State) (b : Byte) :
    (s.setSt b).v = s.v := rfl

@[simp] theorem State.setSt_i (s : State) (b : Byte) :
    (s.setSt b).i = s.i := rfl

@[simp] theorem State.setSt_pc (s : State) (b : Byte) :
    (s.setSt b).pc = s.pc := rfl

@[simp] theorem State.setSt_stack (s : State) (b : Byte) :
    (s.setSt b).stack = s.stack := rfl

@[simp] theorem State.setSt_sp (s : State) (b : Byte) :
    (s.setSt b).sp = s.sp := rfl

@[simp] theorem State.setSt_dt (s : State) (b : Byte) :
    (s.setSt b).dt = s.dt := rfl

@[simp] theorem State.setSt_st (s : State) (b : Byte) :
    (s.setSt b).st = b := rfl

@[simp] theorem State.setSt_keys (s : State) (b : Byte) :
    (s.setSt b).keys = s.keys := rfl

@[simp] theorem State.setSt_disp (s : State) (b : Byte) :
    (s.setSt b).disp = s.disp := rfl

@[simp] theorem State.setSt_waiting (s : State) (b : Byte) :
    (s.setSt b).waiting = s.waiting := rfl

@[simp] theorem State.setSt_waitReg (s : State) (b : Byte) :
    (s.setSt b).waitReg = s.waitReg := rfl

@[simp] theorem State.setSt_faultLatch (s : State) (b : Byte) :
    (s.setSt b).faultLatch = s.faultLatch := rfl

@[simp] theorem State.setSt_framesProcessed (s : State) (b : Byte) :
    (s.setSt b).framesProcessed = s.framesProcessed := rfl

@[simp] theorem State.setSt_queue (s : State) (b : Byte) :
    (s.setSt b).queue = s.queue := rfl

@[simp] theorem State.setSt_phase (s : State) (b : Byte) :
    (s.setSt b).phase = s.phase := rfl

@[simp] theorem State.setSt_mem (s : State) (b : Byte) :
    (s.setSt b).mem = s.mem := rfl

@[simp] theorem State.setSt_draws (s : State) (b : Byte) :
    (s.setSt b).draws = s.draws := rfl

@[simp] theorem State.setSt_params (s : State) (b : Byte) :
    (s.setSt b).params = s.params := rfl

/-! ### setDisp -/

@[simp] theorem State.setDisp_v (s : State) (d : Display) :
    (s.setDisp d).v = s.v := rfl

@[simp] theorem State.setDisp_i (s : State) (d : Display) :
    (s.setDisp d).i = s.i := rfl

@[simp] theorem State.setDisp_pc (s : State) (d : Display) :
    (s.setDisp d).pc = s.pc := rfl

@[simp] theorem State.setDisp_stack (s : State) (d : Display) :
    (s.setDisp d).stack = s.stack := rfl

@[simp] theorem State.setDisp_sp (s : State) (d : Display) :
    (s.setDisp d).sp = s.sp := rfl

@[simp] theorem State.setDisp_dt (s : State) (d : Display) :
    (s.setDisp d).dt = s.dt := rfl

@[simp] theorem State.setDisp_st (s : State) (d : Display) :
    (s.setDisp d).st = s.st := rfl

@[simp] theorem State.setDisp_keys (s : State) (d : Display) :
    (s.setDisp d).keys = s.keys := rfl

@[simp] theorem State.setDisp_disp (s : State) (d : Display) :
    (s.setDisp d).disp = d := rfl

@[simp] theorem State.setDisp_waiting (s : State) (d : Display) :
    (s.setDisp d).waiting = s.waiting := rfl

@[simp] theorem State.setDisp_waitReg (s : State) (d : Display) :
    (s.setDisp d).waitReg = s.waitReg := rfl

@[simp] theorem State.setDisp_faultLatch (s : State) (d : Display) :
    (s.setDisp d).faultLatch = s.faultLatch := rfl

@[simp] theorem State.setDisp_framesProcessed (s : State) (d : Display) :
    (s.setDisp d).framesProcessed = s.framesProcessed := rfl

@[simp] theorem State.setDisp_queue (s : State) (d : Display) :
    (s.setDisp d).queue = s.queue := rfl

@[simp] theorem State.setDisp_phase (s : State) (d : Display) :
    (s.setDisp d).phase = s.phase := rfl

@[simp] theorem State.setDisp_mem (s : State) (d : Display) :
    (s.setDisp d).mem = s.mem := rfl

@[simp] theorem State.setDisp_draws (s : State) (d : Display) :
    (s.setDisp d).draws = s.draws := rfl

@[simp] theorem State.setDisp_params (s : State) (d : Display) :
    (s.setDisp d).params = s.params := rfl

/-! ### setWait -/

@[simp] theorem State.setWait_v (s : State) (w : Bool) (x : Nibble) :
    (s.setWait w x).v = s.v := rfl

@[simp] theorem State.setWait_i (s : State) (w : Bool) (x : Nibble) :
    (s.setWait w x).i = s.i := rfl

@[simp] theorem State.setWait_pc (s : State) (w : Bool) (x : Nibble) :
    (s.setWait w x).pc = s.pc := rfl

@[simp] theorem State.setWait_stack (s : State) (w : Bool) (x : Nibble) :
    (s.setWait w x).stack = s.stack := rfl

@[simp] theorem State.setWait_sp (s : State) (w : Bool) (x : Nibble) :
    (s.setWait w x).sp = s.sp := rfl

@[simp] theorem State.setWait_dt (s : State) (w : Bool) (x : Nibble) :
    (s.setWait w x).dt = s.dt := rfl

@[simp] theorem State.setWait_st (s : State) (w : Bool) (x : Nibble) :
    (s.setWait w x).st = s.st := rfl

@[simp] theorem State.setWait_keys (s : State) (w : Bool) (x : Nibble) :
    (s.setWait w x).keys = s.keys := rfl

@[simp] theorem State.setWait_disp (s : State) (w : Bool) (x : Nibble) :
    (s.setWait w x).disp = s.disp := rfl

@[simp] theorem State.setWait_waiting (s : State) (w : Bool) (x : Nibble) :
    (s.setWait w x).waiting = w := rfl

@[simp] theorem State.setWait_waitReg (s : State) (w : Bool) (x : Nibble) :
    (s.setWait w x).waitReg = x := rfl

@[simp] theorem State.setWait_faultLatch (s : State) (w : Bool) (x : Nibble) :
    (s.setWait w x).faultLatch = s.faultLatch := rfl

@[simp] theorem State.setWait_framesProcessed (s : State) (w : Bool) (x : Nibble) :
    (s.setWait w x).framesProcessed = s.framesProcessed := rfl

@[simp] theorem State.setWait_queue (s : State) (w : Bool) (x : Nibble) :
    (s.setWait w x).queue = s.queue := rfl

@[simp] theorem State.setWait_phase (s : State) (w : Bool) (x : Nibble) :
    (s.setWait w x).phase = s.phase := rfl

@[simp] theorem State.setWait_mem (s : State) (w : Bool) (x : Nibble) :
    (s.setWait w x).mem = s.mem := rfl

@[simp] theorem State.setWait_draws (s : State) (w : Bool) (x : Nibble) :
    (s.setWait w x).draws = s.draws := rfl

@[simp] theorem State.setWait_params (s : State) (w : Bool) (x : Nibble) :
    (s.setWait w x).params = s.params := rfl

/-! ### setMem -/

@[simp] theorem State.setMem_v (s : State) (m : Memory) :
    (s.setMem m).v = s.v := rfl

@[simp] theorem State.setMem_i (s : State) (m : Memory) :
    (s.setMem m).i = s.i := rfl

@[simp] theorem State.setMem_pc (s : State) (m : Memory) :
    (s.setMem m).pc = s.pc := rfl

@[simp] theorem State.setMem_stack (s : State) (m : Memory) :
    (s.setMem m).stack = s.stack := rfl

@[simp] theorem State.setMem_sp (s : State) (m : Memory) :
    (s.setMem m).sp = s.sp := rfl

@[simp] theorem State.setMem_dt (s : State) (m : Memory) :
    (s.setMem m).dt = s.dt := rfl

@[simp] theorem State.setMem_st (s : State) (m : Memory) :
    (s.setMem m).st = s.st := rfl

@[simp] theorem State.setMem_keys (s : State) (m : Memory) :
    (s.setMem m).keys = s.keys := rfl

@[simp] theorem State.setMem_disp (s : State) (m : Memory) :
    (s.setMem m).disp = s.disp := rfl

@[simp] theorem State.setMem_waiting (s : State) (m : Memory) :
    (s.setMem m).waiting = s.waiting := rfl

@[simp] theorem State.setMem_waitReg (s : State) (m : Memory) :
    (s.setMem m).waitReg = s.waitReg := rfl

@[simp] theorem State.setMem_faultLatch (s : State) (m : Memory) :
    (s.setMem m).faultLatch = s.faultLatch := rfl

@[simp] theorem State.setMem_framesProcessed (s : State) (m : Memory) :
    (s.setMem m).framesProcessed = s.framesProcessed := rfl

@[simp] theorem State.setMem_queue (s : State) (m : Memory) :
    (s.setMem m).queue = s.queue := rfl

@[simp] theorem State.setMem_phase (s : State) (m : Memory) :
    (s.setMem m).phase = s.phase := rfl

@[simp] theorem State.setMem_mem (s : State) (m : Memory) :
    (s.setMem m).mem = m := rfl

@[simp] theorem State.setMem_draws (s : State) (m : Memory) :
    (s.setMem m).draws = s.draws := rfl

@[simp] theorem State.setMem_params (s : State) (m : Memory) :
    (s.setMem m).params = s.params := rfl

/-! ### countDraw -/

@[simp] theorem State.countDraw_v (s : State) :
    (s.countDraw).v = s.v := rfl

@[simp] theorem State.countDraw_i (s : State) :
    (s.countDraw).i = s.i := rfl

@[simp] theorem State.countDraw_pc (s : State) :
    (s.countDraw).pc = s.pc := rfl

@[simp] theorem State.countDraw_stack (s : State) :
    (s.countDraw).stack = s.stack := rfl

@[simp] theorem State.countDraw_sp (s : State) :
    (s.countDraw).sp = s.sp := rfl

@[simp] theorem State.countDraw_dt (s : State) :
    (s.countDraw).dt = s.dt := rfl

@[simp] theorem State.countDraw_st (s : State) :
    (s.countDraw).st = s.st := rfl

@[simp] theorem State.countDraw_keys (s : State) :
    (s.countDraw).keys = s.keys := rfl

@[simp] theorem State.countDraw_disp (s : State) :
    (s.countDraw).disp = s.disp := rfl

@[simp] theorem State.countDraw_waiting (s : State) :
    (s.countDraw).waiting = s.waiting := rfl

@[simp] theorem State.countDraw_waitReg (s : State) :
    (s.countDraw).waitReg = s.waitReg := rfl

@[simp] theorem State.countDraw_faultLatch (s : State) :
    (s.countDraw).faultLatch = s.faultLatch := rfl

@[simp] theorem State.countDraw_framesProcessed (s : State) :
    (s.countDraw).framesProcessed = s.framesProcessed := rfl

@[simp] theorem State.countDraw_queue (s : State) :
    (s.countDraw).queue = s.queue := rfl

@[simp] theorem State.countDraw_phase (s : State) :
    (s.countDraw).phase = s.phase := rfl

@[simp] theorem State.countDraw_mem (s : State) :
    (s.countDraw).mem = s.mem := rfl

@[simp] theorem State.countDraw_draws (s : State) :
    (s.countDraw).draws = s.draws + 1 := rfl

@[simp] theorem State.countDraw_params (s : State) :
    (s.countDraw).params = s.params := rfl

/-! ### faulted -/

@[simp] theorem State.faulted_v (s : State) (c : FaultCause) :
    (s.faulted c).v = s.v := rfl

@[simp] theorem State.faulted_i (s : State) (c : FaultCause) :
    (s.faulted c).i = s.i := rfl

@[simp] theorem State.faulted_pc (s : State) (c : FaultCause) :
    (s.faulted c).pc = s.pc := rfl

@[simp] theorem State.faulted_stack (s : State) (c : FaultCause) :
    (s.faulted c).stack = s.stack := rfl

@[simp] theorem State.faulted_sp (s : State) (c : FaultCause) :
    (s.faulted c).sp = s.sp := rfl

@[simp] theorem State.faulted_dt (s : State) (c : FaultCause) :
    (s.faulted c).dt = s.dt := rfl

@[simp] theorem State.faulted_st (s : State) (c : FaultCause) :
    (s.faulted c).st = s.st := rfl

@[simp] theorem State.faulted_keys (s : State) (c : FaultCause) :
    (s.faulted c).keys = s.keys := rfl

@[simp] theorem State.faulted_disp (s : State) (c : FaultCause) :
    (s.faulted c).disp = s.disp := rfl

@[simp] theorem State.faulted_waiting (s : State) (c : FaultCause) :
    (s.faulted c).waiting = s.waiting := rfl

@[simp] theorem State.faulted_waitReg (s : State) (c : FaultCause) :
    (s.faulted c).waitReg = s.waitReg := rfl

@[simp] theorem State.faulted_faultLatch (s : State) (c : FaultCause) :
    (s.faulted c).faultLatch = some (s.record c) := rfl

@[simp] theorem State.faulted_framesProcessed (s : State) (c : FaultCause) :
    (s.faulted c).framesProcessed = s.framesProcessed := rfl

@[simp] theorem State.faulted_queue (s : State) (c : FaultCause) :
    (s.faulted c).queue = s.queue := rfl

@[simp] theorem State.faulted_phase (s : State) (c : FaultCause) :
    (s.faulted c).phase = s.phase := rfl

@[simp] theorem State.faulted_mem (s : State) (c : FaultCause) :
    (s.faulted c).mem = s.mem := rfl

@[simp] theorem State.faulted_draws (s : State) (c : FaultCause) :
    (s.faulted c).draws = s.draws := rfl

@[simp] theorem State.faulted_params (s : State) (c : FaultCause) :
    (s.faulted c).params = s.params := rfl

/-! ### push -/

@[simp] theorem State.push_v (s : State) (w : Word) :
    (s.push w).v = s.v := rfl

@[simp] theorem State.push_i (s : State) (w : Word) :
    (s.push w).i = s.i := rfl

@[simp] theorem State.push_pc (s : State) (w : Word) :
    (s.push w).pc = s.pc := rfl

@[simp] theorem State.push_stack (s : State) (w : Word) :
    (s.push w).stack = s.stack.set s.sp w := rfl

@[simp] theorem State.push_sp (s : State) (w : Word) :
    (s.push w).sp = s.sp + 1 := rfl

@[simp] theorem State.push_dt (s : State) (w : Word) :
    (s.push w).dt = s.dt := rfl

@[simp] theorem State.push_st (s : State) (w : Word) :
    (s.push w).st = s.st := rfl

@[simp] theorem State.push_keys (s : State) (w : Word) :
    (s.push w).keys = s.keys := rfl

@[simp] theorem State.push_disp (s : State) (w : Word) :
    (s.push w).disp = s.disp := rfl

@[simp] theorem State.push_waiting (s : State) (w : Word) :
    (s.push w).waiting = s.waiting := rfl

@[simp] theorem State.push_waitReg (s : State) (w : Word) :
    (s.push w).waitReg = s.waitReg := rfl

@[simp] theorem State.push_faultLatch (s : State) (w : Word) :
    (s.push w).faultLatch = s.faultLatch := rfl

@[simp] theorem State.push_framesProcessed (s : State) (w : Word) :
    (s.push w).framesProcessed = s.framesProcessed := rfl

@[simp] theorem State.push_queue (s : State) (w : Word) :
    (s.push w).queue = s.queue := rfl

@[simp] theorem State.push_phase (s : State) (w : Word) :
    (s.push w).phase = s.phase := rfl

@[simp] theorem State.push_mem (s : State) (w : Word) :
    (s.push w).mem = s.mem := rfl

@[simp] theorem State.push_draws (s : State) (w : Word) :
    (s.push w).draws = s.draws := rfl

@[simp] theorem State.push_params (s : State) (w : Word) :
    (s.push w).params = s.params := rfl

/-! ### pop -/

@[simp] theorem State.pop_v (s : State) :
    (s.pop).v = s.v := rfl

@[simp] theorem State.pop_i (s : State) :
    (s.pop).i = s.i := rfl

@[simp] theorem State.pop_pc (s : State) :
    (s.pop).pc = s.pc := rfl

@[simp] theorem State.pop_stack (s : State) :
    (s.pop).stack = s.stack := rfl

@[simp] theorem State.pop_sp (s : State) :
    (s.pop).sp = s.sp - 1 := rfl

@[simp] theorem State.pop_dt (s : State) :
    (s.pop).dt = s.dt := rfl

@[simp] theorem State.pop_st (s : State) :
    (s.pop).st = s.st := rfl

@[simp] theorem State.pop_keys (s : State) :
    (s.pop).keys = s.keys := rfl

@[simp] theorem State.pop_disp (s : State) :
    (s.pop).disp = s.disp := rfl

@[simp] theorem State.pop_waiting (s : State) :
    (s.pop).waiting = s.waiting := rfl

@[simp] theorem State.pop_waitReg (s : State) :
    (s.pop).waitReg = s.waitReg := rfl

@[simp] theorem State.pop_faultLatch (s : State) :
    (s.pop).faultLatch = s.faultLatch := rfl

@[simp] theorem State.pop_framesProcessed (s : State) :
    (s.pop).framesProcessed = s.framesProcessed := rfl

@[simp] theorem State.pop_queue (s : State) :
    (s.pop).queue = s.queue := rfl

@[simp] theorem State.pop_phase (s : State) :
    (s.pop).phase = s.phase := rfl

@[simp] theorem State.pop_mem (s : State) :
    (s.pop).mem = s.mem := rfl

@[simp] theorem State.pop_draws (s : State) :
    (s.pop).draws = s.draws := rfl

@[simp] theorem State.pop_params (s : State) :
    (s.pop).params = s.params := rfl

/-! ### placeWord -/

@[simp] theorem State.placeWord_v (s : State) (w : Word) :
    (s.placeWord w).v = s.v := rfl

@[simp] theorem State.placeWord_i (s : State) (w : Word) :
    (s.placeWord w).i = s.i := rfl

@[simp] theorem State.placeWord_pc (s : State) (w : Word) :
    (s.placeWord w).pc = s.pc := rfl

@[simp] theorem State.placeWord_stack (s : State) (w : Word) :
    (s.placeWord w).stack = s.stack := rfl

@[simp] theorem State.placeWord_sp (s : State) (w : Word) :
    (s.placeWord w).sp = s.sp := rfl

@[simp] theorem State.placeWord_dt (s : State) (w : Word) :
    (s.placeWord w).dt = s.dt := rfl

@[simp] theorem State.placeWord_st (s : State) (w : Word) :
    (s.placeWord w).st = s.st := rfl

@[simp] theorem State.placeWord_keys (s : State) (w : Word) :
    (s.placeWord w).keys = s.keys := rfl

@[simp] theorem State.placeWord_disp (s : State) (w : Word) :
    (s.placeWord w).disp = s.disp := rfl

@[simp] theorem State.placeWord_waiting (s : State) (w : Word) :
    (s.placeWord w).waiting = s.waiting := rfl

@[simp] theorem State.placeWord_waitReg (s : State) (w : Word) :
    (s.placeWord w).waitReg = s.waitReg := rfl

@[simp] theorem State.placeWord_faultLatch (s : State) (w : Word) :
    (s.placeWord w).faultLatch = none := rfl

@[simp] theorem State.placeWord_framesProcessed (s : State) (w : Word) :
    (s.placeWord w).framesProcessed = s.framesProcessed := rfl

@[simp] theorem State.placeWord_queue (s : State) (w : Word) :
    (s.placeWord w).queue = s.queue := rfl

@[simp] theorem State.placeWord_phase (s : State) (w : Word) :
    (s.placeWord w).phase = s.phase := rfl

@[simp] theorem State.placeWord_mem (s : State) (w : Word) :
    (s.placeWord w).mem = s.mem.setBytes s.pc.toNat [hiByte w, loByte w] := rfl

@[simp] theorem State.placeWord_draws (s : State) (w : Word) :
    (s.placeWord w).draws = s.draws := rfl

@[simp] theorem State.placeWord_params (s : State) (w : Word) :
    (s.placeWord w).params = s.params := rfl

/-! ### setKey -/

@[simp] theorem State.setKey_v (index : Nat) (pressed : Bool) (s : State) :
    (s.setKey index pressed).v = s.v := rfl

@[simp] theorem State.setKey_i (index : Nat) (pressed : Bool) (s : State) :
    (s.setKey index pressed).i = s.i := rfl

@[simp] theorem State.setKey_pc (index : Nat) (pressed : Bool) (s : State) :
    (s.setKey index pressed).pc = s.pc := rfl

@[simp] theorem State.setKey_stack (index : Nat) (pressed : Bool) (s : State) :
    (s.setKey index pressed).stack = s.stack := rfl

@[simp] theorem State.setKey_sp (index : Nat) (pressed : Bool) (s : State) :
    (s.setKey index pressed).sp = s.sp := rfl

@[simp] theorem State.setKey_dt (index : Nat) (pressed : Bool) (s : State) :
    (s.setKey index pressed).dt = s.dt := rfl

@[simp] theorem State.setKey_st (index : Nat) (pressed : Bool) (s : State) :
    (s.setKey index pressed).st = s.st := rfl

@[simp] theorem State.setKey_keys (index : Nat) (pressed : Bool) (s : State) :
    (s.setKey index pressed).keys = s.keys.setIfInBounds index pressed := rfl

@[simp] theorem State.setKey_disp (index : Nat) (pressed : Bool) (s : State) :
    (s.setKey index pressed).disp = s.disp := rfl

@[simp] theorem State.setKey_waiting (index : Nat) (pressed : Bool) (s : State) :
    (s.setKey index pressed).waiting = s.waiting := rfl

@[simp] theorem State.setKey_waitReg (index : Nat) (pressed : Bool) (s : State) :
    (s.setKey index pressed).waitReg = s.waitReg := rfl

@[simp] theorem State.setKey_faultLatch (index : Nat) (pressed : Bool) (s : State) :
    (s.setKey index pressed).faultLatch = s.faultLatch := rfl

@[simp] theorem State.setKey_framesProcessed (index : Nat) (pressed : Bool) (s : State) :
    (s.setKey index pressed).framesProcessed = s.framesProcessed := rfl

@[simp] theorem State.setKey_queue (index : Nat) (pressed : Bool) (s : State) :
    (s.setKey index pressed).queue = s.queue := rfl

@[simp] theorem State.setKey_phase (index : Nat) (pressed : Bool) (s : State) :
    (s.setKey index pressed).phase = s.phase := rfl

@[simp] theorem State.setKey_mem (index : Nat) (pressed : Bool) (s : State) :
    (s.setKey index pressed).mem = s.mem := rfl

@[simp] theorem State.setKey_draws (index : Nat) (pressed : Bool) (s : State) :
    (s.setKey index pressed).draws = s.draws := rfl

@[simp] theorem State.setKey_params (index : Nat) (pressed : Bool) (s : State) :
    (s.setKey index pressed).params = s.params := rfl

/-! ### reconcile -/

@[simp] theorem State.reconcile_v (s : State) (spf n : Nat) :
    (s.reconcile spf n).v = s.v := rfl

@[simp] theorem State.reconcile_i (s : State) (spf n : Nat) :
    (s.reconcile spf n).i = s.i := rfl

@[simp] theorem State.reconcile_pc (s : State) (spf n : Nat) :
    (s.reconcile spf n).pc = s.pc := rfl

@[simp] theorem State.reconcile_stack (s : State) (spf n : Nat) :
    (s.reconcile spf n).stack = s.stack := rfl

@[simp] theorem State.reconcile_sp (s : State) (spf n : Nat) :
    (s.reconcile spf n).sp = s.sp := rfl

@[simp] theorem State.reconcile_dt (s : State) (spf n : Nat) :
    (s.reconcile spf n).dt = timerAfter s.dt n := rfl

@[simp] theorem State.reconcile_st (s : State) (spf n : Nat) :
    (s.reconcile spf n).st = timerAfter s.st n := rfl

@[simp] theorem State.reconcile_keys (s : State) (spf n : Nat) :
    (s.reconcile spf n).keys = s.keys := rfl

@[simp] theorem State.reconcile_disp (s : State) (spf n : Nat) :
    (s.reconcile spf n).disp = s.disp := rfl

@[simp] theorem State.reconcile_waiting (s : State) (spf n : Nat) :
    (s.reconcile spf n).waiting = s.waiting := rfl

@[simp] theorem State.reconcile_waitReg (s : State) (spf n : Nat) :
    (s.reconcile spf n).waitReg = s.waitReg := rfl

@[simp] theorem State.reconcile_faultLatch (s : State) (spf n : Nat) :
    (s.reconcile spf n).faultLatch = s.faultLatch := rfl

@[simp] theorem State.reconcile_framesProcessed (s : State) (spf n : Nat) :
    (s.reconcile spf n).framesProcessed = s.framesProcessed + n := rfl

@[simp] theorem State.reconcile_queue (s : State) (spf n : Nat) :
    (s.reconcile spf n).queue = s.queue ++ toneSegments spf s.st n := rfl

@[simp] theorem State.reconcile_phase (s : State) (spf n : Nat) :
    (s.reconcile spf n).phase = s.phase := rfl

@[simp] theorem State.reconcile_mem (s : State) (spf n : Nat) :
    (s.reconcile spf n).mem = s.mem := rfl

@[simp] theorem State.reconcile_draws (s : State) (spf n : Nat) :
    (s.reconcile spf n).draws = s.draws := rfl

@[simp] theorem State.reconcile_params (s : State) (spf n : Nat) :
    (s.reconcile spf n).params = s.params := rfl

/-! ### Registers: every update but a register write leaves every register -/

@[simp] theorem State.reg_setRegs_self (s t : State) (x : Nibble) : (t.setRegs s.v).reg x = s.reg x := rfl

@[simp] theorem State.reg_setPc (s : State) (w : Word) (x : Nibble) :
    (s.setPc w).reg x = s.reg x := rfl

@[simp] theorem State.reg_setI (s : State) (w : Word) (x : Nibble) :
    (s.setI w).reg x = s.reg x := rfl

@[simp] theorem State.reg_setDt (s : State) (b : Byte) (x : Nibble) :
    (s.setDt b).reg x = s.reg x := rfl

@[simp] theorem State.reg_setSt (s : State) (b : Byte) (x : Nibble) :
    (s.setSt b).reg x = s.reg x := rfl

@[simp] theorem State.reg_setDisp (s : State) (d : Display) (x : Nibble) :
    (s.setDisp d).reg x = s.reg x := rfl

@[simp] theorem State.reg_setWait (s : State) (w : Bool) (r : Nibble) (x : Nibble) :
    (s.setWait w r).reg x = s.reg x := rfl

@[simp] theorem State.reg_setMem (s : State) (m : Memory) (x : Nibble) :
    (s.setMem m).reg x = s.reg x := rfl

@[simp] theorem State.reg_countDraw (s : State) (x : Nibble) :
    (s.countDraw).reg x = s.reg x := rfl

@[simp] theorem State.reg_faulted (s : State) (c : FaultCause) (x : Nibble) :
    (s.faulted c).reg x = s.reg x := rfl

@[simp] theorem State.reg_push (s : State) (w : Word) (x : Nibble) :
    (s.push w).reg x = s.reg x := rfl

@[simp] theorem State.reg_pop (s : State) (x : Nibble) :
    (s.pop).reg x = s.reg x := rfl

@[simp] theorem State.reg_placeWord (s : State) (w : Word) (x : Nibble) :
    (s.placeWord w).reg x = s.reg x := rfl

@[simp] theorem State.reg_setKey (index : Nat) (pressed : Bool) (s : State) (x : Nibble) :
    (s.setKey index pressed).reg x = s.reg x := rfl

@[simp] theorem State.reg_reconcile (s : State) (spf n : Nat) (x : Nibble) :
    (s.reconcile spf n).reg x = s.reg x := rfl

/-! ### Registers: the laws of a write -/

/-- The register law: a written register reads as written, every other as before. -/
theorem State.reg_setReg (s : State) (x y : Nibble) (b : Byte) :
    (s.setReg x b).reg y = if y = x then b else s.reg y := by
  unfold State.reg
  simp only [State.setReg_v, Vector.getElem_set]
  by_cases h : y = x
  · subst h; simp
  · have : x.toNat ≠ y.toNat := fun e => h (BitVec.eq_of_toNat_eq e.symm)
    simp [h, this]

@[simp] theorem State.reg_setReg_same (s : State) (x : Nibble) (b : Byte) : (s.setReg x b).reg x = b := by
  simp [State.reg_setReg]

theorem State.reg_setReg_other (s : State) {x y : Nibble} (b : Byte) (h : y ≠ x) :
    (s.setReg x b).reg y = s.reg y := by
  simp [State.reg_setReg, h]

/-- A register read sees the registers alone. -/
theorem State.reg_congr {s t : State} (h : t.v = s.v) (x : Nibble) : t.reg x = s.reg x := by
  simp [State.reg, h]

/-- Flag order: `VF` is the flag, the destination the result unless it is `VF`, the rest as before. -/
theorem State.reg_setWithFlag (s : State) (x y : Nibble) (b : Byte) (f : Bool) :
    (s.setWithFlag x b f).reg y = if y = 15 then flagByte f else if y = x then b else s.reg y := by
  simp [State.setWithFlag, State.reg_setReg]

/-- What a write of a result with a flag keeps: everything but the registers. -/
theorem State.setWithFlag_eq (s : State) (x : Nibble) (b : Byte) (f : Bool) :
    s.setWithFlag x b f = s.setRegs (s.setWithFlag x b f).v := rfl

/-- What a logic result keeps: everything but the registers. -/
theorem State.setLogic_eq (s : State) (x : Nibble) (b : Byte) :
    s.setLogic x b = s.setRegs (s.setLogic x b).v := by
  unfold State.setLogic; split <;> rfl

/-- A logic result with LOGIC_VF = keep is a plain register write. -/
theorem State.setLogic_keep (s : State) (x : Nibble) (b : Byte) (h : s.params.logicVf = .keep) :
    s.setLogic x b = s.setReg x b := by
  simp [State.setLogic, h]

/-- A logic result with LOGIC_VF = reset ends with `VF` zero. -/
theorem State.setLogic_reset (s : State) (x : Nibble) (b : Byte) (h : s.params.logicVf = .reset) :
    s.setLogic x b = (s.setReg x b).setReg 15 0 := by
  simp [State.setLogic, h]

/-! ### Results with a flag: every field but the registers -/

@[simp] theorem State.setWithFlag_i (s : State) (x : Nibble) (b : Byte) (flag : Bool) :
    (s.setWithFlag x b flag).i = s.i := rfl

@[simp] theorem State.setWithFlag_pc (s : State) (x : Nibble) (b : Byte) (flag : Bool) :
    (s.setWithFlag x b flag).pc = s.pc := rfl

@[simp] theorem State.setWithFlag_stack (s : State) (x : Nibble) (b : Byte) (flag : Bool) :
    (s.setWithFlag x b flag).stack = s.stack := rfl

@[simp] theorem State.setWithFlag_sp (s : State) (x : Nibble) (b : Byte) (flag : Bool) :
    (s.setWithFlag x b flag).sp = s.sp := rfl

@[simp] theorem State.setWithFlag_dt (s : State) (x : Nibble) (b : Byte) (flag : Bool) :
    (s.setWithFlag x b flag).dt = s.dt := rfl

@[simp] theorem State.setWithFlag_st (s : State) (x : Nibble) (b : Byte) (flag : Bool) :
    (s.setWithFlag x b flag).st = s.st := rfl

@[simp] theorem State.setWithFlag_keys (s : State) (x : Nibble) (b : Byte) (flag : Bool) :
    (s.setWithFlag x b flag).keys = s.keys := rfl

@[simp] theorem State.setWithFlag_disp (s : State) (x : Nibble) (b : Byte) (flag : Bool) :
    (s.setWithFlag x b flag).disp = s.disp := rfl

@[simp] theorem State.setWithFlag_waiting (s : State) (x : Nibble) (b : Byte) (flag : Bool) :
    (s.setWithFlag x b flag).waiting = s.waiting := rfl

@[simp] theorem State.setWithFlag_waitReg (s : State) (x : Nibble) (b : Byte) (flag : Bool) :
    (s.setWithFlag x b flag).waitReg = s.waitReg := rfl

@[simp] theorem State.setWithFlag_faultLatch (s : State) (x : Nibble) (b : Byte) (flag : Bool) :
    (s.setWithFlag x b flag).faultLatch = s.faultLatch := rfl

@[simp] theorem State.setWithFlag_framesProcessed (s : State) (x : Nibble) (b : Byte) (flag : Bool) :
    (s.setWithFlag x b flag).framesProcessed = s.framesProcessed := rfl

@[simp] theorem State.setWithFlag_queue (s : State) (x : Nibble) (b : Byte) (flag : Bool) :
    (s.setWithFlag x b flag).queue = s.queue := rfl

@[simp] theorem State.setWithFlag_phase (s : State) (x : Nibble) (b : Byte) (flag : Bool) :
    (s.setWithFlag x b flag).phase = s.phase := rfl

@[simp] theorem State.setWithFlag_mem (s : State) (x : Nibble) (b : Byte) (flag : Bool) :
    (s.setWithFlag x b flag).mem = s.mem := rfl

@[simp] theorem State.setWithFlag_draws (s : State) (x : Nibble) (b : Byte) (flag : Bool) :
    (s.setWithFlag x b flag).draws = s.draws := rfl

@[simp] theorem State.setWithFlag_params (s : State) (x : Nibble) (b : Byte) (flag : Bool) :
    (s.setWithFlag x b flag).params = s.params := rfl

@[simp] theorem State.setLogic_i (s : State) (x : Nibble) (b : Byte) :
    (s.setLogic x b).i = s.i := by rw [State.setLogic_eq]; rfl

@[simp] theorem State.setLogic_pc (s : State) (x : Nibble) (b : Byte) :
    (s.setLogic x b).pc = s.pc := by rw [State.setLogic_eq]; rfl

@[simp] theorem State.setLogic_stack (s : State) (x : Nibble) (b : Byte) :
    (s.setLogic x b).stack = s.stack := by rw [State.setLogic_eq]; rfl

@[simp] theorem State.setLogic_sp (s : State) (x : Nibble) (b : Byte) :
    (s.setLogic x b).sp = s.sp := by rw [State.setLogic_eq]; rfl

@[simp] theorem State.setLogic_dt (s : State) (x : Nibble) (b : Byte) :
    (s.setLogic x b).dt = s.dt := by rw [State.setLogic_eq]; rfl

@[simp] theorem State.setLogic_st (s : State) (x : Nibble) (b : Byte) :
    (s.setLogic x b).st = s.st := by rw [State.setLogic_eq]; rfl

@[simp] theorem State.setLogic_keys (s : State) (x : Nibble) (b : Byte) :
    (s.setLogic x b).keys = s.keys := by rw [State.setLogic_eq]; rfl

@[simp] theorem State.setLogic_disp (s : State) (x : Nibble) (b : Byte) :
    (s.setLogic x b).disp = s.disp := by rw [State.setLogic_eq]; rfl

@[simp] theorem State.setLogic_waiting (s : State) (x : Nibble) (b : Byte) :
    (s.setLogic x b).waiting = s.waiting := by rw [State.setLogic_eq]; rfl

@[simp] theorem State.setLogic_waitReg (s : State) (x : Nibble) (b : Byte) :
    (s.setLogic x b).waitReg = s.waitReg := by rw [State.setLogic_eq]; rfl

@[simp] theorem State.setLogic_faultLatch (s : State) (x : Nibble) (b : Byte) :
    (s.setLogic x b).faultLatch = s.faultLatch := by rw [State.setLogic_eq]; rfl

@[simp] theorem State.setLogic_framesProcessed (s : State) (x : Nibble) (b : Byte) :
    (s.setLogic x b).framesProcessed = s.framesProcessed := by rw [State.setLogic_eq]; rfl

@[simp] theorem State.setLogic_queue (s : State) (x : Nibble) (b : Byte) :
    (s.setLogic x b).queue = s.queue := by rw [State.setLogic_eq]; rfl

@[simp] theorem State.setLogic_phase (s : State) (x : Nibble) (b : Byte) :
    (s.setLogic x b).phase = s.phase := by rw [State.setLogic_eq]; rfl

@[simp] theorem State.setLogic_mem (s : State) (x : Nibble) (b : Byte) :
    (s.setLogic x b).mem = s.mem := by rw [State.setLogic_eq]; rfl

@[simp] theorem State.setLogic_draws (s : State) (x : Nibble) (b : Byte) :
    (s.setLogic x b).draws = s.draws := by rw [State.setLogic_eq]; rfl

@[simp] theorem State.setLogic_params (s : State) (x : Nibble) (b : Byte) :
    (s.setLogic x b).params = s.params := by rw [State.setLogic_eq]; rfl

end Sys2Proof.Machine
end

