-- ==== Sys2Proof/Laws/Ops.lean ====
section
/-! SUPPORT. What each shared operation can do, said once: taking a fault, the pc check, range checks, fetch, keys,
display and sprites. -/

namespace Sys2Proof.Machine

/-! ### The pc check and taking a fault -/

theorem pcLegal_iff (p : Config.Params) (t : Nat) :
    pcLegal p t = true ↔ t ≤ 0xFFF ∧ (p.pcAlignCheck = true → t % 2 = 0) := by
  cases h : p.pcAlignCheck <;> simp [pcLegal, h]

theorem State.commit_legal (s : State) {t : Nat} (after : State) (h : pcLegal s.params t = true) :
    s.commit t after = .next (after.setPc (BitVec.ofNat 16 t)) := by
  simp [State.commit, h]

theorem State.commit_illegal (s : State) {t : Nat} (after : State) (h : pcLegal s.params t = false) :
    s.commit t after = .next (s.faulted (.pcOutOfRange t)) := by
  simp [State.commit, h, State.raise]

/-- Everything `commit` can do: the writes and the new pc, or the fault and nothing else. -/
theorem State.commit_cases {s after u : State} {t : Nat} (h : s.commit t after = .next u) :
    (pcLegal s.params t = true ∧ u = after.setPc (BitVec.ofNat 16 t)) ∨
    (pcLegal s.params t = false ∧ u = s.faulted (.pcOutOfRange t)) := by
  cases hl : pcLegal s.params t with
  | true => rw [State.commit_legal s after hl] at h; injection h with h; exact .inl ⟨rfl, h.symm⟩
  | false => rw [State.commit_illegal s after hl] at h; injection h with h; exact .inr ⟨rfl, h.symm⟩

/-- `commit` always answers a next state. -/
theorem State.commit_answers (s after : State) (t : Nat) : ∃ u, s.commit t after = .next u := by
  cases hl : pcLegal s.params t with
  | true => exact ⟨_, State.commit_legal s after hl⟩
  | false => exact ⟨_, State.commit_illegal s after hl⟩

theorem State.fallThrough_cases {s after u : State} (h : s.fallThrough after = .next u) :
    (pcLegal s.params (s.pc.toNat + 2) = true ∧ u = after.setPc (BitVec.ofNat 16 (s.pc.toNat + 2))) ∨
    (pcLegal s.params (s.pc.toNat + 2) = false ∧ u = s.faulted (.pcOutOfRange (s.pc.toNat + 2))) :=
  State.commit_cases h

theorem State.raise_eq (s : State) (c : FaultCause) : s.raise c = .next (s.faulted c) := rfl

/-- A legal target is below 4096, so `pc` holds it exactly. -/
theorem toNat_of_pcLegal {p : Config.Params} {t : Nat} (h : pcLegal p t = true) :
    (BitVec.ofNat 16 t : Word).toNat = t := by
  have := ((pcLegal_iff p t).1 h).1
  simp; omega

/-- The frame of a handler that writes `pc` alone. -/
theorem State.onlyRegs_setPc (s : State) {t : Nat} (h : pcLegal s.params t = true) :
    s.onlyRegs (s.setPc (BitVec.ofNat 16 t)) [] t :=
  ⟨toNat_of_pcLegal h, fun _ _ => rfl, rfl, fun _ => rfl,
    ⟨rfl, rfl, rfl, rfl, rfl, rfl, rfl, rfl, rfl, rfl, rfl, rfl, rfl, rfl⟩⟩

/-- The frame of a handler that writes registers and `pc`. -/
theorem State.onlyRegs_setRegs (s : State) (v : Vector Byte 16) {t : Nat} (dests : List Nibble)
    (h : pcLegal s.params t = true) (hr : ∀ k, k ∉ dests → (s.setRegs v).reg k = s.reg k) :
    s.onlyRegs ((s.setRegs v).setPc (BitVec.ofNat 16 t)) dests t :=
  ⟨toNat_of_pcLegal h, hr, rfl, fun _ => rfl,
    ⟨rfl, rfl, rfl, rfl, rfl, rfl, rfl, rfl, rfl, rfl, rfl, rfl, rfl, rfl⟩⟩

/-! ### Range checks -/

theorem State.accessFault_eq_none (s : State) (len : Nat) :
    s.accessFault len = none ↔ (0 < len → s.i.toNat + (len - 1) ≤ 0xFFF) := by
  unfold State.accessFault
  by_cases h : 0 < len <;> simp [h]

theorem State.accessFault_eq_some (s : State) (len : Nat) (c : FaultCause) :
    s.accessFault len = some c ↔
      0 < len ∧ 0xFFF < s.i.toNat + (len - 1) ∧ c = .memoryOutOfBounds (max s.i.toNat 0x1000) := by
  unfold State.accessFault
  by_cases h : 0 < len ∧ 0xFFF < s.i.toNat + (len - 1)
  · simp [h, eq_comm]
  · rw [if_neg h]; simp; intro h1 h2; exact absurd ⟨h1, h2⟩ h

theorem State.accessFault_inside (s : State) (len : Nat) (h : s.i.toNat + len ≤ 0xFFF) :
    s.accessFault (len + 1) = none := by
  rw [State.accessFault_eq_none]; omega

theorem State.accessFault_outside (s : State) (len : Nat) (h : 0xFFF < s.i.toNat + len) :
    s.accessFault (len + 1) = some (.memoryOutOfBounds (max s.i.toNat 0x1000)) := by
  rw [State.accessFault_eq_some]; exact ⟨by omega, by omega, rfl⟩

/-! ### Register ranges -/

@[simp] theorem State.length_regsUpTo (s : State) (x : Nibble) : (s.regsUpTo x).length = x.toNat + 1 := by
  have := x.isLt
  simp [State.regsUpTo]; omega

theorem State.getElem_regsUpTo (s : State) {x j : Nibble} (h : j.toNat ≤ x.toNat) :
    (s.regsUpTo x)[j.toNat]? = some (s.reg j) := by
  rw [State.regsUpTo, List.getElem?_take, if_pos (by omega)]
  simp [State.reg]

/-- A register after Fx65's transfer. -/
theorem State.reg_setRegs_loadedRegs (s : State) (x j : Nibble) :
    (s.setRegs (s.loadedRegs x)).reg j = if j.toNat ≤ x.toNat then s.mem.get (s.i.toNat + j.toNat) else s.reg j := by
  show (s.loadedRegs x)[j.toNat]'(j.isLt) = _
  by_cases h : j.toNat ≤ x.toNat <;> simp [State.loadedRegs, h, State.reg]

/-! ### Fetch -/

/-- Fetch reads `pc` and memory alone. -/
theorem State.fetch_congr {s t : State} (hpc : t.pc = s.pc) (hm : t.mem = s.mem) : t.fetch = s.fetch := by
  simp [State.fetch, State.memRead, hpc, hm]

theorem State.fetch_inside (s : State) (h : s.pc.toNat + 1 ≤ 0xFFF) :
    s.fetch = some (wordOfBytes (s.mem.get s.pc.toNat) (s.mem.get (s.pc.toNat + 1))) := by
  have h1 : ¬ 0xFFF < s.pc.toNat := by omega
  have h2 : ¬ 0xFFF < s.pc.toNat + 1 := by omega
  simp [State.fetch, State.memRead, h1, h2]

theorem State.fetch_outside (s : State) (h : 0xFFF < s.pc.toNat + 1) : s.fetch = none := by
  by_cases h1 : 0xFFF < s.pc.toNat <;> simp [State.fetch, State.memRead, h1, h]

/-- A fetch that gives a word has both bytes inside memory. -/
theorem State.fetch_some_bound {s : State} {w : Word} (h : s.fetch = some w) : s.pc.toNat + 1 ≤ 0xFFF := by
  by_contra hn
  rw [State.fetch_outside s (by omega)] at h
  cases h

@[simp] theorem State.fetch_faulted (s : State) (c : FaultCause) : (s.faulted c).fetch = s.fetch :=
  State.fetch_congr rfl rfl

/-! ### Keys -/

theorem State.lowestKey_eq_none (s : State) : s.lowestKey = none ↔ ∀ k, k < 16 → s.key k = false := by
  simp [State.lowestKey, List.find?_eq_none]

theorem State.lowestKey_eq_some (s : State) (k : Nat) :
    s.lowestKey = some k ↔ k < 16 ∧ s.key k = true ∧ ∀ j, j < k → s.key j = false := by
  simp only [State.lowestKey, List.find?_range_eq_some]
  constructor
  · rintro ⟨h1, h2, h3⟩
    exact ⟨List.mem_range.1 h2, h1, fun j hj => by simpa using h3 j hj⟩
  · rintro ⟨h1, h2, h3⟩
    exact ⟨h2, List.mem_range.2 h1, fun j hj => by simp [h3 j hj]⟩

theorem State.key_setKey (s : State) (index k : Nat) (pressed : Bool) :
    (s.setKey index pressed).key k = if k = index ∧ index < 16 then pressed else s.key k := by
  unfold State.key
  rw [State.setKey_keys, Vector.getElem?_setIfInBounds]
  by_cases h : index = k
  · subst h; by_cases h2 : index < 16 <;> simp [h2]
  · simp [h, Ne.symm h]

/-! ### Display and sprites -/

theorem Display.cell_on (d : Display) {px py : Nat} (hx : px < 64) (hy : py < 32) : d.cell px py = d[py][px] := by
  simp [Display.cell, hx, hy]

theorem Display.cell_off (d : Display) {px py : Nat} (h : 64 ≤ px ∨ 32 ≤ py) : d.cell px py = false := by
  unfold Display.cell
  by_cases hy : py < 32
  · have hx : ¬ px < 64 := by omega
    simp [hy, hx]
  · simp [hy]

theorem Display.cell_flip (d : Display) (ps : List (Nat × Nat)) {px py : Nat} (hx : px < 64) (hy : py < 32) :
    (d.flip ps).cell px py = (d.cell px py ^^ ps.contains (px, py)) := by
  rw [Display.cell_on _ hx hy, Display.cell_on _ hx hy]
  simp [Display.flip]

theorem Display.cell_clear (px py : Nat) : Display.clear.cell px py = false := by
  by_cases h : px < 64 ∧ py < 32
  · rw [Display.cell_on _ h.1 h.2]; simp [Display.clear]
  · exact Display.cell_off _ (by omega)

/-- Two displays with equal cells are equal. -/
theorem Display.ext_cell {d e : Display} (h : ∀ px py, px < 64 → py < 32 → d.cell px py = e.cell px py) : d = e := by
  ext py hy px hx
  have := h px py hx hy
  rwa [Display.cell_on _ hx hy, Display.cell_on _ hx hy] at this

theorem mem_spriteRow (x0 y : Nat) (row : Byte) (px py : Nat) :
    (px, py) ∈ spriteRow x0 y row ↔ py = y ∧ ∃ i, i < 8 ∧ px = x0 + i ∧ row.getLsbD (7 - i) = true := by
  simp only [spriteRow, List.mem_filterMap, List.mem_range]
  constructor
  · rintro ⟨i, hi, h⟩
    split at h
    · simp only [Option.some.injEq, Prod.mk.injEq] at h
      exact ⟨h.2.symm, i, hi, h.1.symm, ‹_›⟩
    · cases h
  · rintro ⟨rfl, i, hi, rfl, h⟩
    exact ⟨i, hi, by simp [h]⟩

/-- A position is set in a sprite exactly when it is that of a set bit of one of its rows (44_display R182). -/
theorem mem_spritePixels (x0 y0 : Nat) (rows : List Byte) (px py : Nat) :
    (px, py) ∈ spritePixels x0 y0 rows ↔
      ∃ j i row, rows[j]? = some row ∧ i < 8 ∧ px = x0 + i ∧ py = y0 + j ∧ row.getLsbD (7 - i) = true := by
  induction rows generalizing y0 with
  | nil => simp [spritePixels]
  | cons r rows ih =>
    rw [spritePixels, List.mem_append, mem_spriteRow, ih]
    constructor
    · rintro (⟨rfl, i, hi, hx, hb⟩ | ⟨j, i, row, hr, hi, hx, hy, hb⟩)
      · exact ⟨0, i, r, by simp, hi, hx, by simp, hb⟩
      · exact ⟨j + 1, i, row, by simpa using hr, hi, hx, by omega, hb⟩
    · rintro ⟨j, i, row, hr, hi, hx, hy, hb⟩
      cases j with
      | zero =>
        simp only [List.getElem?_cons_zero, Option.some.injEq] at hr
        subst hr
        exact .inl ⟨by simpa using hy, i, hi, hx, hb⟩
      | succ j => exact .inr ⟨j, i, row, by simpa using hr, hi, hx, by omega, hb⟩

/-- The set bits of the sprite of Dxyn are the positions of `State.spriteBit`. -/
theorem State.mem_sprite (s : State) (x y n : Nibble) (px py : Nat) :
    (px, py) ∈ s.sprite x y n ↔ s.spriteBit x y n px py := by
  unfold State.sprite State.spriteBit
  rw [mem_spritePixels]
  constructor
  · rintro ⟨j, i, row, h1, h2, h3, h4, h5⟩
    have hj : j < n.toNat := by
      by_contra hh
      rw [List.getElem?_eq_none (by simp; omega)] at h1; cases h1
    rw [Memory.getElem_getBytes _ _ _ _ hj] at h1
    injection h1 with h1; subst h1
    exact ⟨j, i, hj, h2, h3, h4, h5⟩
  · rintro ⟨j, i, hj, h2, h3, h4, h5⟩
    exact ⟨j, i, _, Memory.getElem_getBytes _ _ _ _ hj, h2, h3, h4, h5⟩

theorem offScreen_iff (px py : Nat) : offScreen (px, py) = true ↔ px ≥ 64 ∨ py ≥ 32 := by
  rw [offScreen, Bool.or_eq_true, decide_eq_true_iff, decide_eq_true_iff]; rfl

theorem spriteRow_sorted (x0 y : Nat) (row : Byte) :
    (spriteRow x0 y row).Pairwise (fun a b => a.2 < b.2 ∨ a.2 = b.2 ∧ a.1 < b.1) := by
  unfold spriteRow
  rw [List.pairwise_filterMap]
  refine (List.pairwise_lt_range (n := 8)).imp ?_
  intro a b hab p hp q hq
  split at hp <;> split at hq <;> simp at hp hq
  subst hp; subst hq; right; simp; omega

/-- The set bits of a sprite come row-major: by row, then by column (44_display R181). -/
theorem spritePixels_sorted (x0 y0 : Nat) (rows : List Byte) :
    (spritePixels x0 y0 rows).Pairwise (fun a b => a.2 < b.2 ∨ a.2 = b.2 ∧ a.1 < b.1) := by
  induction rows generalizing y0 with
  | nil => simp [spritePixels]
  | cons r rows ih =>
    rw [spritePixels, List.pairwise_append]
    refine ⟨spriteRow_sorted _ _ _, ih _, ?_⟩
    rintro ⟨a1, a2⟩ ha ⟨b1, b2⟩ hb
    rw [mem_spriteRow] at ha; rw [mem_spritePixels] at hb
    obtain ⟨j, i, row, h1, h2, h3, h4, h5⟩ := hb
    left; simp; omega

theorem collision_iff (d : Display) (ps : List (Nat × Nat)) :
    collision d ps = true ↔ ∃ px py, (px, py) ∈ ps ∧ d.cell px py = true := by
  simp [collision]

end Sys2Proof.Machine
end

