-- ==== Sys2Proof/Laws/PerInstr.lean ====
section
/-! SUPPORT. Statements made per instruction: every word of an instruction carries its family in the top nibble. -/

namespace Sys2Proof.Laws.EncodesFamily

/-- The top nibble of the instruction's word is its family (30_encoding R71, R81). -/
def Statement (i : Instr) : Prop := (decodeFields (encode i)).f = i.family

theorem cls (x : Nibble) : Statement (.cls x) := by
  simp [Statement, encode, Instr.family, decodeFields_packXKk_f]

theorem ret (x : Nibble) : Statement (.ret x) := by
  simp [Statement, encode, Instr.family, decodeFields_packXKk_f]

theorem jp (nnn : Addr) : Statement (.jp nnn) := by
  simp [Statement, encode, Instr.family, decodeFields_packNnn_f]

theorem call (nnn : Addr) : Statement (.call nnn) := by
  simp [Statement, encode, Instr.family, decodeFields_packNnn_f]

theorem seByte (x : Nibble) (kk : Byte) : Statement (.seByte x kk) := by
  simp [Statement, encode, Instr.family, decodeFields_packXKk_f]

theorem sneByte (x : Nibble) (kk : Byte) : Statement (.sneByte x kk) := by
  simp [Statement, encode, Instr.family, decodeFields_packXKk_f]

theorem seReg (x y n : Nibble) : Statement (.seReg x y n) := by
  simp [Statement, encode, Instr.family, decodeFields_packXYN_f]

theorem ldByte (x : Nibble) (kk : Byte) : Statement (.ldByte x kk) := by
  simp [Statement, encode, Instr.family, decodeFields_packXKk_f]

theorem addByte (x : Nibble) (kk : Byte) : Statement (.addByte x kk) := by
  simp [Statement, encode, Instr.family, decodeFields_packXKk_f]

theorem ldReg (x y : Nibble) : Statement (.ldReg x y) := by
  simp [Statement, encode, Instr.family, decodeFields_packXYN_f]

theorem orReg (x y : Nibble) : Statement (.orReg x y) := by
  simp [Statement, encode, Instr.family, decodeFields_packXYN_f]

theorem andReg (x y : Nibble) : Statement (.andReg x y) := by
  simp [Statement, encode, Instr.family, decodeFields_packXYN_f]

theorem xorReg (x y : Nibble) : Statement (.xorReg x y) := by
  simp [Statement, encode, Instr.family, decodeFields_packXYN_f]

theorem addReg (x y : Nibble) : Statement (.addReg x y) := by
  simp [Statement, encode, Instr.family, decodeFields_packXYN_f]

theorem sub (x y : Nibble) : Statement (.sub x y) := by
  simp [Statement, encode, Instr.family, decodeFields_packXYN_f]

theorem shr (x y : Nibble) : Statement (.shr x y) := by
  simp [Statement, encode, Instr.family, decodeFields_packXYN_f]

theorem subn (x y : Nibble) : Statement (.subn x y) := by
  simp [Statement, encode, Instr.family, decodeFields_packXYN_f]

theorem shl (x y : Nibble) : Statement (.shl x y) := by
  simp [Statement, encode, Instr.family, decodeFields_packXYN_f]

theorem sneReg (x y n : Nibble) : Statement (.sneReg x y n) := by
  simp [Statement, encode, Instr.family, decodeFields_packXYN_f]

theorem ldI (nnn : Addr) : Statement (.ldI nnn) := by
  simp [Statement, encode, Instr.family, decodeFields_packNnn_f]

theorem jpV0 (nnn : Addr) : Statement (.jpV0 nnn) := by
  simp [Statement, encode, Instr.family, decodeFields_packNnn_f]

theorem rnd (x : Nibble) (kk : Byte) : Statement (.rnd x kk) := by
  simp [Statement, encode, Instr.family, decodeFields_packXKk_f]

theorem drw (x y n : Nibble) : Statement (.drw x y n) := by
  simp [Statement, encode, Instr.family, decodeFields_packXYN_f]

theorem skp (x : Nibble) : Statement (.skp x) := by
  simp [Statement, encode, Instr.family, decodeFields_packXKk_f]

theorem sknp (x : Nibble) : Statement (.sknp x) := by
  simp [Statement, encode, Instr.family, decodeFields_packXKk_f]

theorem ldVxDt (x : Nibble) : Statement (.ldVxDt x) := by
  simp [Statement, encode, Instr.family, decodeFields_packXKk_f]

theorem ldVxK (x : Nibble) : Statement (.ldVxK x) := by
  simp [Statement, encode, Instr.family, decodeFields_packXKk_f]

theorem ldDtVx (x : Nibble) : Statement (.ldDtVx x) := by
  simp [Statement, encode, Instr.family, decodeFields_packXKk_f]

theorem ldStVx (x : Nibble) : Statement (.ldStVx x) := by
  simp [Statement, encode, Instr.family, decodeFields_packXKk_f]

theorem addIVx (x : Nibble) : Statement (.addIVx x) := by
  simp [Statement, encode, Instr.family, decodeFields_packXKk_f]

theorem ldFVx (x : Nibble) : Statement (.ldFVx x) := by
  simp [Statement, encode, Instr.family, decodeFields_packXKk_f]

theorem ldBVx (x : Nibble) : Statement (.ldBVx x) := by
  simp [Statement, encode, Instr.family, decodeFields_packXKk_f]

theorem ldMemVx (x : Nibble) : Statement (.ldMemVx x) := by
  simp [Statement, encode, Instr.family, decodeFields_packXKk_f]

theorem ldVxMem (x : Nibble) : Statement (.ldVxMem x) := by
  simp [Statement, encode, Instr.family, decodeFields_packXKk_f]

end Sys2Proof.Laws.EncodesFamily
end

