-- ==== Sys2Proof/Laws/Scheduler.lean ====
section
/-! SUPPORT. The scheduler's and the audio context's operations, one lemma each. -/

namespace Sys2Proof.Machine

/-- A timer falls by the smaller of its value and the frames, in plain numbers. -/
theorem toNat_timerAfter (t : Byte) (n : Nat) : (timerAfter t n).toNat = t.toNat - min t.toNat n := by
  have := t.isLt
  simp [timerAfter]; omega

/-- `fill_audio` touches the queue and the phase alone. -/
theorem State.fillAudio_state {σ : Type} (wave : Config.Waveform σ) (len : Nat) (s : State) :
    (s.fillAudio wave len).2 =
      { s with queue := (drainQueue wave s.queue len s.phase).2, phase := s.phase + len } := rfl

@[simp] theorem length_segmentSamples {σ : Type} (wave : Config.Waveform σ) (tone : Bool) (p count : Nat) :
    (segmentSamples wave tone p count).length = count := by
  simp [segmentSamples]

@[simp] theorem drainQueue_zero {σ : Type} (wave : Config.Waveform σ) (q : List Segment) (p : Nat) :
    drainQueue wave q 0 p = ([], q) := by
  cases q <;> simp [drainQueue]

/-- One turn of the loop of `fill_audio`: the head segment is used up, or shortened. -/
theorem drainQueue_cons {σ : Type} (wave : Config.Waveform σ) (g : Segment) (q : List Segment) (need p : Nat) :
    drainQueue wave (g :: q) (need + 1) p =
      if g.count ≤ need + 1 then
        (segmentSamples wave g.tone p g.count ++ (drainQueue wave q (need + 1 - g.count) (p + g.count)).1,
          (drainQueue wave q (need + 1 - g.count) (p + g.count)).2)
      else (segmentSamples wave g.tone p (need + 1), { g with count := g.count - (need + 1) } :: q) := by
  by_cases h : g.count ≤ need + 1
  · simp [drainQueue, h]
  · have h1 : min g.count (need + 1) = need + 1 := by omega
    have h2 : need + 1 ≠ g.count := by omega
    rw [if_neg h, drainQueue]
    simp only [h1, if_neg h2]

end Sys2Proof.Machine
end

