-- ==== Sys2Proof/Laws/Step.lean ====
section
/-! SUPPORT. What one cycle can do, said once. -/

namespace Sys2Proof.Machine

/-- A run takes its first step, when that answers a next state. -/
theorem run_succ {s t : State} (k : Nat) (h : step s = .next t) :
    Host.Core.run Sys2Proof.core (k + 1) s = Host.Core.run Sys2Proof.core k t := by
  have h2 : Sys2Proof.core.step s = Host.Outcome.next t := h
  simp only [Host.Core.run]
  rw [h2]

theorem step_eq_cycle (s : State) : step s = cycle s := rfl

/-- Every way a cycle can answer a next state: a fetch fault, an illegal word, or the decoded instruction's meaning. -/
theorem cycle_cases {s t : State} (h : cycle s = .next t) :
    s.faultLatch = none ∧
      ((s.fetch = none ∧ t = s.faulted s.fetchFault) ∨
       (∃ w e, s.fetch = some w ∧ dispatch s.params.decodeStrict w = .error e ∧ t = s.faulted .illegalInstruction) ∨
       (∃ w i, s.fetch = some w ∧ dispatch s.params.decodeStrict w = .ok i ∧ exec i s = .next t)) := by
  unfold cycle at h
  split at h
  · cases h
  · rename_i hl
    refine ⟨hl, ?_⟩
    split at h
    · rename_i hf
      rw [State.raise_eq] at h; injection h with h
      exact .inl ⟨hf, h.symm⟩
    · rename_i w hw
      split at h
      · rename_i e he
        rw [State.raise_eq] at h; injection h with h
        exact .inr (.inl ⟨w, e, hw, he, h.symm⟩)
      · rename_i i hi
        exact .inr (.inr ⟨w, i, hw, hi, h⟩)

/-- After `commit`: a fault, or the latch as before, when the handler's writes leave the latch alone. -/
theorem State.commit_latch {s after u : State} {t : Nat} (h : s.commit t after = .next u)
    (ha : after.faultLatch = s.faultLatch) : (∃ c, u = s.faulted c) ∨ u.faultLatch = s.faultLatch := by
  rcases State.commit_cases h with ⟨_, rfl⟩ | ⟨_, rfl⟩
  · exact .inr ha
  · exact .inl ⟨_, rfl⟩

theorem State.raise_cases {s u : State} {c : FaultCause} (h : s.raise c = .next u) : u = s.faulted c := by
  injection h with h; exact h.symm

theorem State.raise_latch {s u : State} {c : FaultCause} (h : s.raise c = .next u) :
    (∃ c, u = s.faulted c) ∨ u.faultLatch = s.faultLatch := .inl ⟨c, State.raise_cases h⟩

/-- Every instruction faults and does nothing else, or leaves the latch as it was. -/
theorem exec_latch {i : Instr} {s u : State} (h : exec i s = .next u) :
    (∃ c, u = s.faulted c) ∨ u.faultLatch = s.faultLatch := by
  cases i
  case orReg => exact State.commit_latch h (State.setLogic_faultLatch _ _ _)
  case andReg => exact State.commit_latch h (State.setLogic_faultLatch _ _ _)
  case xorReg => exact State.commit_latch h (State.setLogic_faultLatch _ _ _)
  case ldVxK x =>
    simp only [exec, execLdVxK] at h
    split at h
    · exact State.commit_latch h rfl
    · injection h with h; subst h; exact .inr rfl
  case drw =>
    simp only [exec, execDrw] at h
    split at h
    · exact State.raise_latch h
    · split at h
      · exact State.raise_latch h
      · exact State.commit_latch h (by simp)
  case ret => simp only [exec, execRet] at h; split at h; exacts [State.raise_latch h, State.commit_latch h rfl]
  case call => simp only [exec, execCall] at h; split at h; exacts [State.raise_latch h, State.commit_latch h rfl]
  case skp => simp only [exec, execSkp] at h; split at h; exacts [State.raise_latch h, State.commit_latch h rfl]
  case sknp => simp only [exec, execSknp] at h; split at h; exacts [State.raise_latch h, State.commit_latch h rfl]
  case ldBVx => simp only [exec, execLdBVx] at h; split at h; exacts [State.raise_latch h, State.commit_latch h rfl]
  case ldMemVx => simp only [exec, execLdMemVx] at h; split at h; exacts [State.raise_latch h, State.commit_latch h rfl]
  case ldVxMem => simp only [exec, execLdVxMem] at h; split at h; exacts [State.raise_latch h, State.commit_latch h rfl]
  all_goals exact State.commit_latch h rfl

end Sys2Proof.Machine
end

