-- ==== Sys2Proof/Tests/Slice0.lean ====
section
/-! SUPPORT. The model's own tests: ill-formed terms, one word of the spec per instruction, single steps from
95_test_vectors (the row is named in each comment), and for every statement with hypotheses a state that meets them. -/

open Sys2Proof Sys2Proof.Machine

namespace Sys2Proof.Tests

/- One theorem after the other: the kernel's evaluations of many small steps at once would each hold a thread. -/
set_option Elab.async false

/-! ### Builders -/

/-- The reset machine with its pc and some registers set. -/
def machineAt (pc : Word) (regs : List (Nibble × Byte)) : State :=
  regs.foldl (fun s r => s.setReg r.1 r.2) (State.reset.setPc pc)

/-- Bytes placed at an address. -/
def poke (s : State) (a : Nat) (bs : List Byte) : State := s.setMem (s.mem.setBytes a bs)

/-- The next state of a step that runs the word, when it does not fault. -/
def after (w : Word) (s : State) : Option State :=
  match step (s.placeWord w) with
  | .next t => if t.faultLatch = none then some t else none
  | .fault _ => none
  | .refused _ => none

/-- The record of a step that runs the word and faults. -/
def faultOf (w : Word) (s : State) : Option FaultRecord :=
  match step (s.placeWord w) with
  | .next t => t.faultLatch
  | .fault _ => none
  | .refused _ => none

/-! ### Well-formedness: an ill-formed term for each check (30_encoding R75, R77) -/

theorem test_ill_formed_cls : (Instr.cls 1).wellFormed true = false := by decide
theorem test_ill_formed_ret : (Instr.ret 15).wellFormed true = false := by decide
theorem test_ill_formed_seReg : (Instr.seReg 1 2 1).wellFormed true = false := by decide
theorem test_ill_formed_sneReg : (Instr.sneReg 1 2 15).wellFormed true = false := by decide
theorem test_well_formed_when_not_strict : (Instr.cls 1).wellFormed false = true := by decide

/-! ### Decoding: one word per instruction, written from the pattern column of 30_encoding R81 -/

theorem test_decode_cls : decodeTableWord 16 0x00E0 = some (.cls 0) := by decide
theorem test_decode_ret : decodeTableWord 16 0x00EE = some (.ret 0) := by decide
theorem test_decode_jp : decodeTableWord 16 0x1ABC = some (.jp 0xABC) := by decide
theorem test_decode_call : decodeTableWord 16 0x2210 = some (.call 0x210) := by decide
theorem test_decode_seByte : decodeTableWord 16 0x3A5C = some (.seByte 10 0x5C) := by decide
theorem test_decode_sneByte : decodeTableWord 16 0x4A5C = some (.sneByte 10 0x5C) := by decide
theorem test_decode_seReg : decodeTableWord 16 0x5120 = some (.seReg 1 2 0) := by decide
theorem test_decode_ldByte : decodeTableWord 16 0x6A42 = some (.ldByte 10 0x42) := by decide
theorem test_decode_addByte : decodeTableWord 16 0x7320 = some (.addByte 3 0x20) := by decide
theorem test_decode_ldReg : decodeTableWord 16 0x8120 = some (.ldReg 1 2) := by decide
theorem test_decode_orReg : decodeTableWord 16 0x8121 = some (.orReg 1 2) := by decide
theorem test_decode_andReg : decodeTableWord 16 0x8122 = some (.andReg 1 2) := by decide
theorem test_decode_xorReg : decodeTableWord 16 0x8123 = some (.xorReg 1 2) := by decide
theorem test_decode_addReg : decodeTableWord 16 0x8124 = some (.addReg 1 2) := by decide
theorem test_decode_sub : decodeTableWord 16 0x8125 = some (.sub 1 2) := by decide
theorem test_decode_shr : decodeTableWord 16 0x8346 = some (.shr 3 4) := by decide
theorem test_decode_subn : decodeTableWord 16 0x8127 = some (.subn 1 2) := by decide
theorem test_decode_shl : decodeTableWord 16 0x834E = some (.shl 3 4) := by decide
theorem test_decode_sneReg : decodeTableWord 16 0x912F = some (.sneReg 1 2 15) := by decide
theorem test_decode_ldI : decodeTableWord 16 0xA123 = some (.ldI 0x123) := by decide
theorem test_decode_jpV0 : decodeTableWord 16 0xB300 = some (.jpV0 0x300) := by decide
theorem test_decode_rnd : decodeTableWord 16 0xC00F = some (.rnd 0 0x0F) := by decide
theorem test_decode_drw : decodeTableWord 16 0xD125 = some (.drw 1 2 5) := by decide
theorem test_decode_skp : decodeTableWord 16 0xE19E = some (.skp 1) := by decide
theorem test_decode_sknp : decodeTableWord 16 0xEFA1 = some (.sknp 15) := by decide
theorem test_decode_ldVxDt : decodeTableWord 16 0xF107 = some (.ldVxDt 1) := by decide
theorem test_decode_ldVxK : decodeTableWord 16 0xF50A = some (.ldVxK 5) := by decide
theorem test_decode_ldDtVx : decodeTableWord 16 0xF015 = some (.ldDtVx 0) := by decide
theorem test_decode_ldStVx : decodeTableWord 16 0xF318 = some (.ldStVx 3) := by decide
theorem test_decode_addIVx : decodeTableWord 16 0xF21E = some (.addIVx 2) := by decide
theorem test_decode_ldFVx : decodeTableWord 16 0xF029 = some (.ldFVx 0) := by decide
theorem test_decode_ldBVx : decodeTableWord 16 0xF733 = some (.ldBVx 7) := by decide
theorem test_decode_ldMemVx : decodeTableWord 16 0xF255 = some (.ldMemVx 2) := by decide
theorem test_decode_ldVxMem : decodeTableWord 16 0xFF65 = some (.ldVxMem 15) := by decide

/-! ### Control flow (95_test_vectors L2-B, L1-3) -/

/-- B9. -/
theorem test_ret_pops : (after 0x00EE ((machineAt 0x210 []).push 0x206)).map (fun t => (t.pc, t.sp))
    = some (0x206, 0) := by decide +kernel
/-- B10. -/
theorem test_ret_underflow : faultOf 0x00EE (machineAt 0x200 [])
    = some ⟨.stackUnderflow 0, 0x200, some 0x00EE⟩ := by decide +kernel
/-- B3. -/
theorem test_jp_odd_target : faultOf 0x1201 (machineAt 0x200 [])
    = some ⟨.pcOutOfRange 0x201, 0x200, some 0x1201⟩ := by decide +kernel
/-- B5, PC_ALIGN_CHECK = false. -/
theorem test_jp_unaligned : (after 0x1FFF
    { machineAt 0x200 [] with params := { defaultParams with pcAlignCheck := false } }).map (fun t => t.pc)
    = some 0xFFF := by decide +kernel
/-- B6. -/
theorem test_call_pushes : (after 0x2210 (machineAt 0x204 [])).map (fun t => (t.pc, t.sp, t.stack.head?))
    = some (0x210, 1, some 0x206) := by decide +kernel
/-- B8: the stack check comes before the target's check. -/
theorem test_call_overflow : faultOf 0x2211 { machineAt 0x204 [] with sp := 16 }
    = some ⟨.stackOverflow 16, 0x204, some 0x2211⟩ := by decide +kernel
/-- L1-3. -/
theorem test_se_byte_skips : (after 0x31FF (machineAt 0x300 [(1, 0xFF)])).map (fun t => t.pc)
    = some 0x304 := by decide +kernel
/-- B16. -/
theorem test_se_byte_past_the_end : faultOf 0x3105 (machineAt 0xFFC [(1, 5)])
    = some ⟨.pcOutOfRange 0x1000, 0xFFC, some 0x3105⟩ := by decide +kernel
/-- L1-3. -/
theorem test_sne_byte_skips : (after 0x41FF (machineAt 0x300 [(1, 0x00)])).map (fun t => t.pc)
    = some 0x304 := by decide +kernel
/-- L1-3. -/
theorem test_sne_byte_falls : (after 0x4100 (machineAt 0x300 [(1, 0x00)])).map (fun t => t.pc)
    = some 0x302 := by decide +kernel
/-- B19. -/
theorem test_se_reg_same : (after 0x5440 (machineAt 0x300 [(4, 0x33)])).map (fun t => t.pc)
    = some 0x304 := by decide +kernel
/-- L1-3. -/
theorem test_se_reg_falls : (after 0x5120 (machineAt 0x300 [(1, 0xFF)])).map (fun t => t.pc)
    = some 0x302 := by decide +kernel
/-- B20. -/
theorem test_sne_reg_same : (after 0x9440 (machineAt 0x300 [(4, 0x33)])).map (fun t => t.pc)
    = some 0x302 := by decide +kernel
/-- L1-3. -/
theorem test_sne_reg_skips : (after 0x9120 (machineAt 0x300 [(2, 0xFF)])).map (fun t => t.pc)
    = some 0x304 := by decide +kernel
/-- B13: the sum is not wrapped. -/
theorem test_jp_v0_past_the_end : faultOf 0xBFFF (machineAt 0x200 [(0, 1)])
    = some ⟨.pcOutOfRange 0x1000, 0x200, some 0xBFFF⟩ := by decide +kernel
/-- B15, JUMP_REG = Vx. -/
theorem test_jp_vx : (after 0xB300
    { machineAt 0x200 [(3, 4)] with params := { defaultParams with jumpReg := .vx } }).map (fun t => t.pc)
    = some 0x304 := by decide +kernel

/-! ### Register arithmetic and logic (95_test_vectors L2-C) -/

/-- C1. -/
theorem test_ld_byte_vf : (after 0x6FAA (machineAt 0x200 [(15, 0x55)])).map (fun t => (t.reg 15, t.pc))
    = some (0xAA, 0x202) := by decide +kernel
/-- C36. -/
theorem test_ld_byte_at_the_end : faultOf 0x6000 (machineAt 0xFFE [])
    = some ⟨.pcOutOfRange 0x1000, 0xFFE, some 0x6000⟩ := by decide +kernel
/-- C2. -/
theorem test_add_byte_keeps_vf : (after 0x7001 (machineAt 0x200 [(0, 0xFF), (15, 0x55)])).map
    (fun t => (t.reg 0, t.reg 15)) = some (0x00, 0x55) := by decide +kernel
/-- C4. -/
theorem test_ld_reg : (after 0x8120 (machineAt 0x200 [(2, 0x7A)])).map (fun t => (t.reg 1, t.reg 2))
    = some (0x7A, 0x7A) := by decide +kernel
/-- C5. -/
theorem test_or_keeps_vf : (after 0x8121 (machineAt 0x200 [(1, 0xF0), (2, 0x0F), (15, 7)])).map
    (fun t => (t.reg 1, t.reg 15)) = some (0xFF, 7) := by decide +kernel
/-- C6, LOGIC_VF = reset. -/
theorem test_or_resets_vf : (after 0x8121
    { machineAt 0x200 [(1, 0xF0), (2, 0x0F), (15, 7)] with params := { defaultParams with logicVf := .reset } }).map
    (fun t => (t.reg 1, t.reg 15)) = some (0xFF, 0) := by decide +kernel
/-- C7. -/
theorem test_and : (after 0x8122 (machineAt 0x200 [(1, 0xF0), (2, 0x3C)])).map (fun t => t.reg 1)
    = some 0x30 := by decide +kernel
/-- C8. -/
theorem test_xor : (after 0x8123 (machineAt 0x200 [(1, 0xF0), (2, 0x3C)])).map (fun t => t.reg 1)
    = some 0xCC := by decide +kernel
/-- C14: the flag is written after the result. -/
theorem test_add_reg_into_vf : (after 0x8F24 (machineAt 0x200 [(15, 0x10), (2, 0xF5)])).map (fun t => t.reg 15)
    = some 1 := by decide +kernel
/-- C15: `VF` is read as `Vy` before the flag is written. -/
theorem test_add_reg_reads_vf : (after 0x81F4 (machineAt 0x200 [(1, 1), (15, 0xFF)])).map
    (fun t => (t.reg 1, t.reg 15)) = some (0, 1) := by decide +kernel
/-- C16: equal operands do not borrow. -/
theorem test_sub_equal : (after 0x8125 (machineAt 0x200 [(1, 5), (2, 5)])).map (fun t => (t.reg 1, t.reg 15))
    = some (0, 1) := by decide +kernel
/-- C17. -/
theorem test_sub_borrows : (after 0x8125 (machineAt 0x200 [(1, 0), (2, 0xFF)])).map (fun t => (t.reg 1, t.reg 15))
    = some (1, 0) := by decide +kernel
/-- C26, SHIFT_SRC = Vy. -/
theorem test_shr_from_vy : (after 0x8346
    { machineAt 0x200 [(4, 5)] with params := { defaultParams with shiftSrc := .vy } }).map
    (fun t => (t.reg 3, t.reg 15, t.reg 4)) = some (2, 1, 5) := by decide +kernel
/-- C28. -/
theorem test_shr_vf : (after 0x8F06 (machineAt 0x200 [(15, 3)])).map (fun t => t.reg 15)
    = some 1 := by decide +kernel
/-- C20. -/
theorem test_subn_borrows : (after 0x8127 (machineAt 0x200 [(1, 2), (2, 1)])).map (fun t => (t.reg 1, t.reg 15))
    = some (0xFF, 0) := by decide +kernel
/-- C21. -/
theorem test_subn : (after 0x8127 (machineAt 0x200 [(1, 1), (2, 0x10)])).map (fun t => (t.reg 1, t.reg 15))
    = some (0x0F, 1) := by decide +kernel
/-- C30. -/
theorem test_shl : (after 0x830E (machineAt 0x200 [(3, 0x7F)])).map (fun t => (t.reg 3, t.reg 15))
    = some (0xFE, 0) := by decide +kernel
/-- C32. -/
theorem test_shl_vf : (after 0x8FFE (machineAt 0x200 [(15, 0x81)])).map (fun t => t.reg 15)
    = some 1 := by decide +kernel
/-- C33, for any draw: the draw is never evaluated, only counted. -/
theorem test_rnd_counts_the_draw : (after 0xC0FF (machineAt 0x200 [])).map (fun t => (t.pc, t.draws))
    = some (0x202, 1) := by decide +kernel

/-! ### Index register and memory (95_test_vectors L2-D, L1-2) -/

/-- D1. -/
theorem test_ld_i : (after 0xA123 (machineAt 0x200 [])).map (fun t => t.i) = some 0x123 := by decide +kernel
/-- D3: no fault above 0xFFF. -/
theorem test_add_i_above_memory : (after 0xF21E ((machineAt 0x200 [(2, 1)]).setI 0xFFF)).map
    (fun t => (t.i, t.reg 15)) = some (0x1000, 0) := by decide +kernel
/-- D4. -/
theorem test_add_i_wraps : (after 0xF21E ((machineAt 0x200 [(2, 1)]).setI 0xFFFF)).map (fun t => t.i)
    = some 0 := by decide +kernel
/-- D7, FONT_DIGIT = low_nibble. -/
theorem test_ld_f_low_nibble : (after 0xF029 (machineAt 0x200 [(0, 0x1A)])).map (fun t => t.i)
    = some 0x032 := by decide +kernel
/-- D7, FONT_DIGIT = full. -/
theorem test_ld_f_full : (after 0xF029
    { machineAt 0x200 [(0, 0x1A)] with params := { defaultParams with fontDigit := .full } }).map (fun t => t.i)
    = some 0x082 := by decide +kernel
/-- D9. -/
theorem test_bcd_digits : (after 0xF033 ((machineAt 0x200 [(0, 255)]).setI 0x300)).map
    (fun t => (t.mem.getBytes 0x300 3, t.i)) = some ([2, 5, 5], 0x300) := by decide +kernel
/-- D12. -/
theorem test_bcd_outside : faultOf 0xF033 ((machineAt 0x200 [(0, 7)]).setI 0xFFE)
    = some ⟨.memoryOutOfBounds 0x1000, 0x200, some 0xF033⟩ := by decide +kernel
/-- L1-2, the first half. -/
theorem test_store_registers :
    (after 0xF255 ((machineAt 0x200 [(0, 0x11), (1, 0x22), (2, 0x33)]).setI 0x300)).map
    (fun t => (t.mem.getBytes 0x300 4, t.i)) = some ([0x11, 0x22, 0x33, 0], 0x303) := by decide +kernel
/-- D15. -/
theorem test_store_outside : faultOf 0xFF55 ((machineAt 0x200 []).setI 0xFF1)
    = some ⟨.memoryOutOfBounds 0x1000, 0x200, some 0xFF55⟩ := by decide +kernel
/-- D17. -/
theorem test_load_registers :
    (after 0xF265 (poke ((machineAt 0x200 [(3, 0x77)]).setI 0x300) 0x300 [2, 5, 4, 9])).map
    (fun t => (t.reg 0, t.reg 1, t.reg 2, t.reg 3, t.i)) = some (2, 5, 4, 0x77, 0x303) := by decide +kernel
/-- D19. -/
theorem test_load_outside : faultOf 0xF065 ((machineAt 0x200 []).setI 0xFFF0)
    = some ⟨.memoryOutOfBounds 0xFFF0, 0x200, some 0xF065⟩ := by decide +kernel

/-! ### Timers and keys (95_test_vectors L2-E) -/

/-- E1. -/
theorem test_ld_vx_dt : (after 0xF107 ((machineAt 0x200 []).setDt 3)).map (fun t => (t.reg 1, t.dt))
    = some (3, 3) := by decide +kernel
/-- E2. -/
theorem test_ld_dt_vx : (after 0xF015 (machineAt 0x200 [(0, 0xFF)])).map (fun t => (t.dt, t.st))
    = some (0xFF, 0) := by decide +kernel
/-- E3: no audio is queued. -/
theorem test_ld_st_vx : (after 0xF018 (machineAt 0x200 [(0, 2)])).map (fun t => (t.st, t.queue))
    = some (2, []) := by decide +kernel
/-- E4. -/
theorem test_skp_pressed : (after 0xE09E ((machineAt 0x300 [(0, 5)]).setKey 5 true)).map (fun t => t.pc)
    = some 0x304 := by decide +kernel
/-- E8. -/
theorem test_skp_out_of_range : faultOf 0xE09E (machineAt 0x300 [(0, 16)])
    = some ⟨.keyIndexOutOfRange 16, 0x300, some 0xE09E⟩ := by decide +kernel
/-- E7. -/
theorem test_sknp_pressed : (after 0xE0A1 ((machineAt 0x300 [(0, 5)]).setKey 5 true)).map (fun t => t.pc)
    = some 0x302 := by decide +kernel
/-- E9 for ExA1, KEY_OOR = low_nibble: key 0 is tested. -/
theorem test_sknp_low_nibble : (after 0xE0A1
    { (machineAt 0x300 [(0, 16)]).setKey 0 true with params := { defaultParams with keyOor := .lowNibble } }).map
    (fun t => t.pc) = some 0x302 := by decide +kernel
/-- E10: the lowest pressed key. -/
theorem test_wait_latches_the_lowest :
    (after 0xF20A (((machineAt 0x20A []).setKey 7 true).setKey 3 true)).map
    (fun t => (t.reg 2, t.waiting, t.pc)) = some (3, false, 0x20C) := by decide +kernel
/-- E12: at the end of memory, with no key, there is no pc check. -/
theorem test_wait_at_the_end : (after 0xF50A (machineAt 0xFFE [])).map
    (fun t => (t.waiting, t.waitReg, t.pc, t.reg 5)) = some (true, 5, 0xFFE, 0) := by decide +kernel

/-! ### Display (95_test_vectors L2-F) -/

/-- F1. -/
theorem test_cls : (after 0x00E0 ((machineAt 0x200 [(15, 0x42)]).setDisp (Display.clear.flip [(3, 0)]))).map
    (fun t => (t.disp.cell 3 0, t.reg 15)) = some (false, 0x42) := by decide +kernel
/-- F3. -/
theorem test_drw_off_screen : faultOf 0xD121 (poke ((machineAt 0x200 [(1, 60)]).setI 0x300) 0x300 [0xFF])
    = some ⟨.displayOutOfBounds 64 0, 0x200, some 0xD121⟩ := by decide +kernel
/-- F10: the x coordinate is the old `VF`. -/
theorem test_drw_collides : (after 0xDF21 (poke
    (((machineAt 0x200 [(15, 3)]).setI 0x300).setDisp (Display.clear.flip [(3, 0)])) 0x300 [0x80])).map
    (fun t => (t.disp.cell 3 0, t.reg 15)) = some (false, 1) := by decide +kernel

/-! ### Faults, scheduler, audio, load (95_test_vectors L2-G to L2-J) -/

/-- The record of row G1. -/
def underflowRecord : FaultRecord := ⟨.stackUnderflow 0, 0x200, some 0x00EE⟩

/-- The halted machine of row G1. -/
def haltedMachine : State := { State.reset with faultLatch := some underflowRecord }

/-- G1. -/
theorem test_halted_step : stepResult haltedMachine = .fault underflowRecord := by decide +kernel
/-- The codes of 60_exceptions R200. -/
theorem test_fault_codes : (underflowRecord.code, underflowRecord.cause.info,
    (FaultCause.keyIndexOutOfRange 16).code, (FaultCause.displayOutOfBounds 64 0).info)
    = (3, [0], 7, [64, 0]) := by decide
/-- G2. -/
theorem test_halted_tick : (haltedMachine.tickFrame ⟨10, 735⟩ (10 / 60)).1 = ⟨0, 0⟩ := by decide +kernel
/-- H2. -/
theorem test_tick_half_frame : (State.reset.tickFrame ⟨10, 735⟩ (1 / 120)).1 = ⟨0, 10⟩ := by decide +kernel
/-- H3. -/
theorem test_tick_half_second : (State.reset.tickFrame ⟨10, 735⟩ (1 / 2)).1 = ⟨30, 300⟩ := by decide +kernel
/-- H5: time moved backwards. -/
theorem test_tick_backwards :
    ({ State.reset with framesProcessed := 30 }.tickFrame ⟨10, 735⟩ (49 / 100)).1 = ⟨0, 10⟩ := by decide +kernel
/-- H11. -/
theorem test_tick_queues_tone_then_silence :
    ((State.reset.setSt 2).tickFrame ⟨10, 735⟩ (5 / 60)).2.queue = [⟨2 * 735, true⟩, ⟨3 * 735, false⟩] := by
  decide +kernel
/-- I5. -/
theorem test_fill_audio : ({ State.reset with queue := [⟨2, true⟩, ⟨2, false⟩, ⟨1, true⟩] }.fillAudio
    ⟨fun p => (1 : Int) + p, -1⟩ 4).1 = [1, 2, -1, -1] := by decide +kernel
/-- I4. -/
theorem test_fill_audio_shortens :
    ({ State.reset with queue := [⟨10, true⟩] }.fillAudio ⟨fun _ => true, false⟩ 4).2.queue = [⟨6, true⟩] := by
  decide +kernel
/-- J2. -/
theorem test_load_too_long : State.reset.load (List.replicate 3585 0) = none := by decide +kernel
/-- J4. -/
theorem test_load_font : (State.reset.load [0x12, 0x00]).map
    (fun t => (t.mem.getBytes 0x4B 6, t.mem.getBytes 0x1FF 4))
    = some ([0xF0, 0x80, 0xF0, 0x80, 0x80, 0], [0, 0x12, 0x00, 0]) := by decide +kernel
/-- A byte equal to the reset contents is not listed. -/
theorem test_memory_canonical : Memory.set (Memory.set [] 0x300 7) 0x300 0 = [] := by decide
/-- The optional `Vy` of a shift is written (30_encoding R91). -/
theorem test_asm : (Instr.shr 3 4).asm = ("SHR", [.reg 3, .reg 4]) := by decide

/-! ### Witnesses: states and operands that meet the hypotheses of each statement -/

/-- A machine with a word placed at its pc. -/
def holding (w : Word) (s : State) : State := s.placeWord w

/-- PC_ALIGN_CHECK = false. -/
def unaligned (s : State) : State := { s with params := { defaultParams with pcAlignCheck := false } }

theorem witness_DecodeOfEncodeIsTheInstruction :
    (Instr.seReg 1 2 0).wellFormed true = true ∧ (Instr.cls 7).wellFormed false = true := by decide

theorem witness_EncodeOfDecodeIsTheWord :
    dispatch true 0x5120 = .ok (.seReg 1 2 0) ∧ dispatch false 0x5121 = .ok (.seReg 1 2 1) := ⟨rfl, rfl⟩

theorem witness_DispatchAgreesWithOpcodeTable :
    ⟨1, 0x00E0, 0xF0FF, 0xFFFF⟩ ∈ opcodeTable ∧ ⟨34, 0xF065, 0xF0FF, 0xF0FF⟩ ∈ opcodeTable := by decide

theorem witness_StepRunsTheDecodedInstruction :
    (holding 0x6A42 State.reset).faultLatch = none ∧ (holding 0x6A42 State.reset).fetch = some 0x6A42 ∧
    dispatch (holding 0x6A42 State.reset).params.decodeStrict 0x6A42 = .ok (.ldByte 10 0x42) :=
  ⟨rfl, by decide +kernel, rfl⟩

theorem witness_IllegalWordIsLatched :
    State.reset.faultLatch = none ∧ State.reset.fetch = some 0x0000 ∧
    dispatch State.reset.params.decodeStrict 0x0000 = .error (.illegalInstruction 0x0000) :=
  ⟨rfl, by decide +kernel, rfl⟩

theorem witness_FetchReadsTwoBytesBigEndian :
    (machineAt 0xFFE []).pc.toNat ≤ 0xFFE ∧
    ((machineAt 0xFFE []).params.pcAlignCheck = true ∧ (machineAt 0xFFE []).pcInv) ∧
    ((unaligned (machineAt 0xFFF [])).pc = 0xFFF ∧ (unaligned (machineAt 0xFFF [])).faultLatch = none) := by
  decide +kernel

theorem witness_HaltedStepReturnsTheLatchedFault :
    haltedMachine.faultLatch = some underflowRecord ∧ ∀ image, HostOp.step ≠ .load image :=
  ⟨rfl, fun _ h => by cases h⟩

/-- A machine whose next word is the illegal 0x0000. -/
theorem witness_FaultsArePrecise :
    ∃ t rec, step (machineAt 0x204 []) = .next t ∧ t.faultLatch = some rec := ⟨_, _, rfl, rfl⟩

theorem witness_EveryStepOfARunningMachineCompletes : (machineAt 0x204 []).faultLatch = none := by decide +kernel

/-- A machine at 0x202 with one call pending meets the invariant, and steps. -/
theorem witness_StepKeepsTheInvariant :
    ((machineAt 0x202 []).push 0x300).Inv ∧ ∃ t, step ((machineAt 0x202 []).push 0x300) = .next t := by
  refine ⟨⟨by decide +kernel, by decide +kernel, by decide +kernel, ?_, ?_, ?_, ?_⟩, _, rfl⟩
  · intro a h
    rcases List.mem_or_eq_of_mem_set h with h | rfl
    · rw [(List.mem_replicate.1 h).2]; decide
    · decide
  · intro g h; cases h
  · intro r h; cases h
  · intro h; cases h

theorem witness_EveryRunKeepsTheInvariant :
    (⟨1, 1⟩ : Config.Rates).valid = true ∧ ((machineAt 0x202 []).push 0x300).Inv :=
  ⟨rfl, witness_StepKeepsTheInvariant.1⟩

theorem witness_PcStaysEvenInsideMemory :
    (machineAt 0xFFE []).params.pcAlignCheck = true ∧
    (machineAt 0xFFE []).pc.toNat % 2 = 0 ∧ (machineAt 0xFFE []).pc.toNat < 4096 := by decide +kernel

theorem witness_EveryNewPcPassesTheCheck :
    ∃ t, exec (.jp 0x300) State.reset = .next t ∧ t.pc ≠ State.reset.pc := ⟨_, rfl, by decide +kernel⟩

/-- One instruction for each of the three clauses. -/
theorem witness_WritersOfIndexMemoryAndStack :
    (∃ t, exec (.ldI 0x300) State.reset = .next t ∧ t.i ≠ State.reset.i) ∧
    (∃ t, exec (.ldBVx 0) ((machineAt 0x200 [(0, 255)]).setI 0x300) = .next t ∧ t.mem ≠ []) ∧
    (∃ t, exec (.call 0x300) State.reset = .next t ∧ t.sp ≠ State.reset.sp) :=
  ⟨⟨_, rfl, by decide +kernel⟩, ⟨_, rfl, by decide +kernel⟩, ⟨_, rfl, by decide +kernel⟩⟩

/-- One instruction for each of the four clauses. -/
theorem witness_WritersOfTimersDisplayAndWaitLatch :
    (∃ t, exec (.ldDtVx 0) (machineAt 0x200 [(0, 5)]) = .next t ∧ t.dt ≠ 0) ∧
    (∃ t, exec (.ldStVx 0) (machineAt 0x200 [(0, 5)]) = .next t ∧ t.st ≠ 0) ∧
    (∃ t, exec (.drw 0 0 1) State.reset = .next t ∧ t.disp.cell 0 0 ≠ State.reset.disp.cell 0 0) ∧
    (∃ t, exec (.ldVxK 0) State.reset = .next t ∧ t.waiting ≠ State.reset.waiting) :=
  ⟨⟨_, rfl, by decide +kernel⟩, ⟨_, rfl, by decide +kernel⟩, ⟨_, rfl, by decide +kernel⟩, ⟨_, rfl, by decide +kernel⟩⟩

theorem witness_StepLeavesHostStateAlone : ∃ t, step (machineAt 0x204 []) = .next t := ⟨_, rfl⟩

theorem witness_MachineStateIgnoresTheAudioContext :
    State.reset.sameButAudio { State.reset with queue := [⟨10, true⟩], phase := 3 } := rfl

theorem witness_RetPopsTheReturnAddress :
    State.reset.sp = 0 ∧
    (0 < (State.reset.push 0x206).sp ∧ (State.reset.push 0x206).stack[(State.reset.push 0x206).sp - 1]? = some 0x206 ∧
      pcLegal (State.reset.push 0x206).params (0x206 : Word).toNat = true) ∧
    ((State.reset.push 0x1000).returnsInv ∧ pcLegal (State.reset.push 0x1000).params (0x1000 : Word).toNat = false) := by
  refine ⟨by decide +kernel, by decide +kernel, ?_, by decide +kernel⟩
  intro a h
  rcases List.mem_or_eq_of_mem_set h with h | rfl
  · rw [(List.mem_replicate.1 h).2]; decide
  · decide

theorem witness_JpJumps :
    (¬ (State.reset.params.pcAlignCheck = true ∧ (0xFFE : Addr).toNat % 2 = 1)) ∧
    (State.reset.params.pcAlignCheck = true ∧ (0xFFF : Addr).toNat % 2 = 1) := by decide +kernel

theorem witness_CallPushesAndJumps :
    ({ State.reset with sp := 16 }.sp = { State.reset with sp := 16 }.params.stackDepth) ∧
    ({ State.reset with sp := 15 }.stackInv ∧ { State.reset with sp := 15 }.sp < 16 ∧
      pcLegal State.reset.params (0xFFE : Addr).toNat = true) ∧
    pcLegal State.reset.params (0x211 : Addr).toNat = false := by decide +kernel

theorem witness_JpV0AddsTheOffsetRegister :
    ((machineAt 0x200 [(0, 4)]).params.jumpReg = .v0 ∧ (4 : Byte) = (machineAt 0x200 [(0, 4)]).reg 0 ∧
      pcLegal (machineAt 0x200 [(0, 4)]).params ((0x300 : Addr).toNat + (4 : Byte).toNat) = true) ∧
    (decodeFields (packNnn 0xB 0x300)).x = 3 ∧
    { machineAt 0x200 [(3, 4)] with params := { defaultParams with jumpReg := .vx } }.params.jumpReg = .vx ∧
    pcLegal (machineAt 0x200 [(0, 1)]).params ((0xFFF : Addr).toNat + (1 : Byte).toNat) = false := by decide +kernel

/-- A taken and an untaken skip at 0xFFC: the first leaves memory, the second reaches the last instruction. -/
theorem witness_ByteSkipsAdvanceByFourOrTwo :
    ((machineAt 0xFFC [(1, 5)]).reg 1 = 5 ∧ pcLegal (machineAt 0xFFC [(1, 5)]).params (0xFFC + 4) = false) ∧
    ((machineAt 0xFFC [(1, 4)]).reg 1 ≠ 5 ∧ pcLegal (machineAt 0xFFC [(1, 4)]).params (0xFFC + 2) = true) := by
  decide +kernel

theorem witness_RegisterSkipsAdvanceByFourOrTwo :
    ((machineAt 0xFFA [(1, 5), (2, 5)]).reg 1 = (machineAt 0xFFA [(1, 5), (2, 5)]).reg 2 ∧
      pcLegal (machineAt 0xFFA [(1, 5), (2, 5)]).params (0xFFA + 4) = true) ∧
    ((machineAt 0xFFE [(1, 4)]).reg 1 ≠ (machineAt 0xFFE [(1, 4)]).reg 2 ∧
      pcLegal (machineAt 0xFFE [(1, 4)]).params (0xFFE + 2) = false) := by decide +kernel

/-- The premise of every instruction that falls through, at the last instruction that may, and its trap one further. -/
theorem witness_fall_through :
    pcLegal (machineAt 0xFFC []).params ((machineAt 0xFFC []).pc.toNat + 2) = true ∧
    pcLegal (machineAt 0xFFE []).params ((machineAt 0xFFE []).pc.toNat + 2) = false := by decide +kernel

theorem witness_LdByteLoadsTheImmediate : pcLegal State.reset.params (State.reset.pc.toNat + 2) = true := by
  decide +kernel
theorem witness_AddByteWrapsWithoutCarry :
    pcLegal (machineAt 0xFFC [(15, 0xFF)]).params ((machineAt 0xFFC [(15, 0xFF)]).pc.toNat + 2) = true := by
  decide +kernel
theorem witness_LdRegCopies :
    pcLegal (machineAt 0x200 [(15, 1)]).params ((machineAt 0x200 [(15, 1)]).pc.toNat + 2) = true := by decide +kernel
theorem witness_LogicCombinesTheRegisters :
    pcLegal (machineAt 0x202 []).params ((machineAt 0x202 []).pc.toNat + 2) = true ∧
    (machineAt 0x202 []).params.logicVf = .keep ∧
    { State.reset with params := { defaultParams with logicVf := .reset } }.params.logicVf = .reset := by decide +kernel
/-- A sum of 256 carries, a sum of 255 does not. -/
theorem witness_AddRegSetsTheCarry :
    pcLegal (machineAt 0x200 [(1, 0xFF), (2, 1)]).params ((machineAt 0x200 [(1, 0xFF), (2, 1)]).pc.toNat + 2) = true ∧
    ((machineAt 0x200 [(1, 0xFF), (2, 1)]).reg 1).toNat + ((machineAt 0x200 [(1, 0xFF), (2, 1)]).reg 2).toNat > 255 ∧
    ¬ ((machineAt 0x200 [(1, 0xFF)]).reg 1).toNat + ((machineAt 0x200 [(1, 0xFF)]).reg 2).toNat > 255 := by decide +kernel
theorem witness_SubtractionsSetNotBorrow :
    (5 : Nat) = ((machineAt 0x200 [(1, 5), (2, 6)]).reg 1).toNat ∧
    (6 : Nat) = ((machineAt 0x200 [(1, 5), (2, 6)]).reg 2).toNat ∧
    pcLegal (machineAt 0x200 [(1, 5), (2, 6)]).params ((machineAt 0x200 [(1, 5), (2, 6)]).pc.toNat + 2) = true := by
  decide +kernel
theorem witness_ShiftsMoveOneBitIntoTheFlag :
    ((machineAt 0x200 [(3, 0x81)]).params.shiftSrc = .vx ∧ (0x81 : Nat) = ((machineAt 0x200 [(3, 0x81)]).reg 3).toNat) ∧
    { State.reset with params := { defaultParams with shiftSrc := .vy } }.params.shiftSrc = .vy ∧
    pcLegal (machineAt 0x200 [(3, 0x81)]).params ((machineAt 0x200 [(3, 0x81)]).pc.toNat + 2) = true := by decide +kernel
theorem witness_RndMasksAFreeByte :
    pcLegal State.reset.params (State.reset.pc.toNat + 2) = true ∧ (0 : Byte) = 0 ∧ (0xFF : Byte) = 0xFF := by
  decide +kernel

theorem witness_LdILoadsTheAddress :
    pcLegal (machineAt 0x204 []).params ((machineAt 0x204 []).pc.toNat + 2) = true := by decide +kernel
theorem witness_AddIWrapsAtSixteenBits :
    pcLegal ((machineAt 0x200 [(2, 1)]).setI 0xFFFF).params (((machineAt 0x200 [(2, 1)]).setI 0xFFFF).pc.toNat + 2) = true := by
  decide +kernel
theorem witness_LdFPointsAtTheGlyph :
    ((machineAt 0x200 [(0, 0x1A)]).params.fontDigit = .lowNibble ∧
      (10 : Nat) = ((machineAt 0x200 [(0, 0x1A)]).reg 0).toNat % 16) ∧
    { State.reset with params := { defaultParams with fontDigit := .full } }.params.fontDigit = .full ∧
    pcLegal (machineAt 0x200 [(0, 0x1A)]).params ((machineAt 0x200 [(0, 0x1A)]).pc.toNat + 2) = true := by decide +kernel
/-- 0xFFD is the last `I` that fits three bytes, 0xFFE the first that does not. -/
theorem witness_BcdStoresThreeDigits :
    (State.reset.setI 0xFFE).i.toNat + 2 > 0xFFF ∧ (State.reset.setI 0xFFD).i.toNat + 2 ≤ 0xFFF ∧
    pcLegal (State.reset.setI 0xFFD).params ((State.reset.setI 0xFFD).pc.toNat + 2) = true := by decide +kernel
/-- 0xFF0 is the last `I` that fits sixteen registers, 0xFF1 the first that does not. -/
theorem witness_StoreRegistersAdvancesIndex :
    (State.reset.setI 0xFF1).i.toNat + (15 : Nibble).toNat > 0xFFF ∧
    (State.reset.setI 0xFF0).i.toNat + (15 : Nibble).toNat ≤ 0xFFF ∧
    pcLegal (State.reset.setI 0xFF0).params ((State.reset.setI 0xFF0).pc.toNat + 2) = true := by decide +kernel
theorem witness_LoadRegistersAdvancesIndex :
    (State.reset.setI 0x1000).i.toNat + (0 : Nibble).toNat > 0xFFF ∧
    (State.reset.setI 0xFFF).i.toNat + (0 : Nibble).toNat ≤ 0xFFF ∧
    pcLegal (State.reset.setI 0xFFF).params ((State.reset.setI 0xFFF).pc.toNat + 2) = true := by decide +kernel

theorem witness_TimerTransfersCopyTheByte :
    pcLegal (State.reset.setDt 3).params ((State.reset.setDt 3).pc.toNat + 2) = true := by decide +kernel
/-- Key 15 is a key; 16 is none under KEY_OOR = fault, and key 0 under KEY_OOR = low_nibble. -/
theorem witness_KeySkipsTestTheKeyLevel :
    ((machineAt 0x300 [(0, 16)]).params.keyOor = .fault ∧ ((machineAt 0x300 [(0, 16)]).reg 0).toNat > 15) ∧
    ((machineAt 0x300 [(0, 15)]).reg 0).toNat ≤ 15 ∧
    ({ State.reset with params := { defaultParams with keyOor := .lowNibble } }.params.keyOor = .lowNibble ∧
      (0 : Nat) = ((machineAt 0x300 [(0, 16)]).reg 0).toNat % 16) ∧
    pcLegal (machineAt 0x300 [(0, 15)]).params (0x300 + 4) = true ∧
    pcLegal (machineAt 0x300 [(0, 15)]).params (0x300 + 2) = true := by decide +kernel
/-- Key 15 alone pressed, and no key pressed. -/
theorem witness_WaitForKeyLatchesTheLowest :
    ((15 : Nat) < 16 ∧ (State.reset.setKey 15 true).key 15 = true ∧
      (∀ j, j < 15 → (State.reset.setKey 15 true).key j = false) ∧
      pcLegal (State.reset.setKey 15 true).params ((State.reset.setKey 15 true).pc.toNat + 2) = true) ∧
    ∀ k, k < 16 → (machineAt 0xFFE []).key k = false := by decide +kernel

theorem witness_ClsClearsTheDisplay :
    (true = true → (0 : Nibble) = 0) ∧
    pcLegal (machineAt 0x206 []).params ((machineAt 0x206 []).pc.toNat + 2) = true := by decide +kernel

/-- One row of the sprite at 0x300, drawn at column 60: bit 4 is the first off the display. -/
def offScreenDraw : State := poke ((machineAt 0x200 [(1, 60)]).setI 0x300) 0x300 [0x08]

theorem witness_DrawXorsTheSprite_memory :
    0 < (2 : Nibble).toNat ∧ ((machineAt 0x200 []).setI 0xFFF).i.toNat + (2 : Nibble).toNat - 1 > 0xFFF := by
  decide +kernel

theorem witness_DrawXorsTheSprite_display :
    offScreenDraw.params.drawOob = .fault ∧ offScreenDraw.spriteBit 1 2 1 64 0 ∧ ((64 : Nat) ≥ 64 ∨ (0 : Nat) ≥ 32) ∧
    (∀ qx qy, offScreenDraw.spriteBit 1 2 1 qx qy → (qx ≥ 64 ∨ qy ≥ 32) → 0 < qy ∨ (0 = qy ∧ 64 ≤ qx)) := by
  refine ⟨by decide +kernel, ⟨0, 4, by decide, by decide, by decide +kernel, by decide +kernel, by decide +kernel⟩,
    by decide, ?_⟩
  rintro qx qy ⟨j, i, hj, hi, rfl, rfl, -⟩ h
  have e1 : (offScreenDraw.reg 1).toNat = 60 := by decide +kernel
  have e2 : (offScreenDraw.reg 2).toNat = 0 := by decide +kernel
  have e3 : (1 : Nibble).toNat = 1 := rfl
  rw [e1, e2] at h ⊢
  omega

/-- The glyph 0 of the font drawn in the corner: every set bit is on the display. -/
theorem witness_DrawXorsTheSprite_draw :
    (State.reset.i.toNat + (5 : Nibble).toNat - 1 ≤ 0xFFF) ∧
    (∀ px py, State.reset.spriteBit 0 0 5 px py → px < 64 ∧ py < 32) ∧ State.reset.spriteBit 0 0 5 0 0 := by
  refine ⟨by decide +kernel, ?_, ⟨0, 0, by decide, by decide, by decide +kernel, by decide +kernel, by decide +kernel⟩⟩
  rintro px py ⟨j, i, hj, hi, rfl, rfl, -⟩
  have e1 : (State.reset.reg 0).toNat = 0 := by decide +kernel
  have e3 : (5 : Nibble).toNat = 5 := rfl
  rw [e1]; omega

theorem witness_CallThenRetComesBack :
    { State.reset with sp := 15 }.stackInv ∧ { State.reset with sp := 15 }.sp < 16 ∧
    pcLegal State.reset.params (0x300 : Addr).toNat = true ∧
    pcLegal State.reset.params (State.reset.pc.toNat + 2) = true := by decide +kernel

/-- `V[0]` stored at 0x300, by a machine that is not halted. -/
theorem witness_StoreThenLoadFollowsConflictSeven :
    ((machineAt 0x200 [(0, 9)]).setI 0x300).i.toNat + (0 : Nibble).toNat ≤ 0xFFF ∧
    ∃ t, exec (.ldMemVx 0) ((machineAt 0x200 [(0, 9)]).setI 0x300) = .next t ∧ t.faultLatch = none ∧
      pcLegal t.params (t.pc.toNat + 2) = true ∧
      (t.mem = t.mem ∧ (t.setI 0x300).i = ((machineAt 0x200 [(0, 9)]).setI 0x300).i) :=
  ⟨by decide +kernel, _, rfl, by decide +kernel, by decide +kernel, by decide +kernel, by decide +kernel⟩

theorem witness_DrawingTwiceRestoresTheDisplay :
    ∃ t u, exec (.drw 0 0 5) State.reset = .next t ∧ t.faultLatch = none ∧
      exec (.drw 0 0 5) t = .next u ∧ u.faultLatch = none ∧ State.reset.disp.cell 0 0 = false := by
  have h : ∀ s t : State, exec (.drw 0 0 5) s = .next t → exec (.drw 0 0 5) s = .next t := fun _ _ h => h
  exact ⟨_, _, h _ _ rfl, by decide +kernel, h _ _ rfl, by decide +kernel, by decide +kernel⟩

theorem witness_WaitForKeySpinsUntilAKey :
    (holding 0xF50A State.reset).faultLatch = none ∧
    (holding 0xF50A State.reset).fetch = some (packXKk 0xF 5 0x0A) ∧
    (∀ j, j < 16 → (holding 0xF50A State.reset).key j = false) ∧
    pcLegal (holding 0xF50A State.reset).params ((holding 0xF50A State.reset).pc.toNat + 2) = true := by decide +kernel

/-- A store over the very next word: `V[0]` and `V[1]` at 0x202. -/
def selfModifying : State := (holding 0xF155 (machineAt 0x200 [(0, 0x60), (1, 0x07)])).setI 0x202

theorem witness_StoreIsSeenByTheNextFetch :
    selfModifying.faultLatch = none ∧ selfModifying.fetch = some (packXKk 0xF 1 0x55) ∧
    ∃ t, step selfModifying = .next t ∧ t.faultLatch = none ∧ t.pc.toNat ≤ 0xFFE ∧
      (t.mem.get 0x202 = 0x60 ∧ t.mem.get 0x203 = 0x07) :=
  ⟨by decide +kernel, by decide +kernel, _, rfl, by decide +kernel, by decide +kernel, by decide +kernel⟩

/-- The digits of 254 stored from 0x201: the tens and the units fall on the very next word. -/
def selfModifyingDigits : State := (holding 0xF033 (machineAt 0x200 [(0, 254)])).setI 0x201

theorem witness_StoreIsSeenByTheNextFetch_digits :
    selfModifyingDigits.faultLatch = none ∧ selfModifyingDigits.fetch = some (packXKk 0xF 0 0x33) ∧
    ∃ t, step selfModifyingDigits = .next t ∧ t.faultLatch = none ∧ t.pc.toNat ≤ 0xFFE ∧
      ((t.mem.get 0x201).toNat = 254 / 100 ∧ (t.mem.get 0x202).toNat = 254 / 10 % 10 ∧
        (t.mem.get 0x203).toNat = 254 % 10 ∧ t.mem.get 0x204 = selfModifyingDigits.mem.get 0x204) :=
  ⟨by decide +kernel, by decide +kernel, _, rfl, by decide +kernel, by decide +kernel, by decide +kernel⟩

theorem witness_ParkedMachineStaysParked :
    (holding 0x1200 State.reset).faultLatch = none ∧ (holding 0x1200 State.reset).pcInv ∧
    (holding 0x1200 State.reset).parked := by decide +kernel

theorem witness_TickFrameReconciles :
    haltedMachine.faultLatch ≠ none ∧ (State.reset.setSt 2).faultLatch = none ∧ (0 : Rat) ≤ 5 / 60 ∧
    ((5 : Nat) : Int) = ((5 / 60 : Rat) * 60).floor ∧ 5 = 5 - (State.reset.setSt 2).framesProcessed ∧
    2 = min (State.reset.setSt 2).st.toNat 5 ∧ (State.reset.setSt 2).st ≠ 0 := by decide +kernel

theorem witness_TimersCountFramesDownToZero :
    (State.reset.setDt 5).dt.toNat ≤ 5 ∧ (State.reset.setSt 5).st.toNat ≤ 5 ∧ 1 ≤ 735 ∧
    (State.reset.setSt 5).st ≠ 0 := by decide +kernel

/-- A closed gate, a batch that stops short of its budget when it closes, and one that uses all of it. -/
theorem witness_BatchUsesItsBudgetUnlessHaltedOrWaiting :
    (State.reset.setWait true 5).gate = true ∧ ((holding 0xF50A State.reset).runBatch 10).1 < 10 ∧
    0 < ((holding 0xF50A State.reset).runBatch 10).1 ∧ 1 < ((holding 0x1200 State.reset).runBatch 2).1 := by
  decide +kernel

theorem witness_SetKeyWritesOneKey : 15 < 16 := by decide

theorem witness_FillAudioDrainsTheQueueInOrder :
    ∀ g ∈ { State.reset with queue := [⟨3, true⟩] }.queue, 1 ≤ g.count := by decide +kernel

theorem witness_LoadGivesEveryPieceItsValue :
    (List.replicate 3585 (0 : Byte)).length > 3584 ∧ (List.replicate 3584 (0 : Byte)).length ≤ 3584 := by
  rw [List.length_replicate, List.length_replicate]; decide

end Sys2Proof.Tests
end

section
/-! PROOFS. What decoding a word takes, and the rules of an instruction that ends with `pc <- pc + 2`. -/

namespace Sys2Proof.Machine

/-! ### Decoding a word -/

/-- A word whose fields select a well-formed instruction dispatches to it (30_encoding R74, R82). -/
theorem dispatch_of_dispatchFields {strict : Bool} {w : Word} {i : Instr}
    (hd : dispatchFields (decodeFields w) = some i) (hw : i.wellFormed strict = true) :
    dispatch strict w = .ok i := by
  simp [dispatch, hd, hw]

/-! ### Instructions that end with `pc <- pc + 2` -/

theorem State.fallThrough_legal (s after : State) (h : pcLegal s.params (s.pc.toNat + 2) = true) :
    s.fallThrough after = .next (after.setPc (BitVec.ofNat 16 (s.pc.toNat + 2))) :=
  State.commit_legal s after h

theorem State.fallThrough_illegal (s after : State) (h : pcLegal s.params (s.pc.toNat + 2) = false) :
    s.fallThrough after = .next (s.faulted (.pcOutOfRange (s.pc.toNat + 2))) :=
  State.commit_illegal s after h

/-- An instruction whose last act is the fall-through traps when the next pc fails its check. -/
theorem State.pcTraps_of_fallThrough {s after : State} {i : Instr} (he : exec i s = s.fallThrough after) :
    s.pcTraps i (s.pc.toNat + 2) :=
  fun h => he.trans (State.fallThrough_illegal s after h)

/-- The frame of a handler that writes one register and `pc`. -/
theorem State.onlyRegs_setReg (s : State) (x : Nibble) (b : Byte) {t : Nat} (h : pcLegal s.params t = true) :
    s.onlyRegs ((s.setReg x b).setPc (BitVec.ofNat 16 t)) [x] t :=
  State.onlyRegs_setRegs s (s.setReg x b).v [x] h
    fun _ hk => State.reg_setReg_other s b (List.ne_of_not_mem_cons hk)

/-! ### Cxkk RND -/

theorem exec_rnd (x : Nibble) (kk : Byte) (s : State) :
    exec (.rnd x kk) s = s.fallThrough (s.countDraw.setReg x (Config.draw8 s.draws &&& kk)) := rfl

theorem dispatch_rnd (strict : Bool) (x : Nibble) (kk : Byte) :
    dispatch strict (packXKk 0xC x kk) = .ok (.rnd x kk) := by
  apply dispatch_of_dispatchFields
  · simp [dispatchFields, decodeFields_packXKk_f, decodeFields_packXKk_x, decodeFields_packXKk_kk]
  · rfl

/-- No bit outside the mask survives it. -/
theorem and_mask_and_not_mask (b mask : Byte) : b &&& mask &&& ~~~mask = 0 := by
  rw [BitVec.and_assoc, BitVec.and_not_self]; exact BitVec.and_zero

/-- Settles O34: the draw's register law and the frame of a one-register write hold for every value of the draw. -/
theorem rndMasksAFreeByte : Obligations.RndMasksAFreeByte := by
  intro x kk s
  refine ⟨fun strict => dispatch_rnd strict x kk, fun hpc => ?_, State.pcTraps_of_fallThrough (exec_rnd x kk s)⟩
  have hreg : (s.countDraw.setReg x (Config.draw8 s.draws &&& kk)).reg x = Config.draw8 s.draws &&& kk :=
    State.reg_setReg_same _ x _
  refine ⟨_, (exec_rnd x kk s).trans (State.fallThrough_legal s _ hpc), ?_⟩
  rw [State.reg_setPc, hreg]
  refine ⟨rfl, and_mask_and_not_mask _ kk, ?_, ?_, rfl, State.onlyRegs_setReg s x _ hpc⟩
  · rintro rfl; exact BitVec.and_zero
  · rintro rfl; exact BitVec.and_allOnes

end Sys2Proof.Machine
end

section
/-! PROOFS. What an instruction writes, said once, and the statements about the state that follow from it. -/

namespace Sys2Proof.Machine

/-! ### What an instruction writes -/

/-- What a handler that completes has written before `pc`: registers alone, or what its row of 30_encoding R81 adds.
The values matter only where an invariant of Safety.lean reads them. -/
inductive State.Writes (s : State) : Instr → State → Prop
  | regs (i : Instr) (v : Vector Byte 16) (h : ∀ x, i ≠ .ldVxK x) : s.Writes i (s.setRegs v)
  | cls (x : Nibble) (d : Display) : s.Writes (.cls x) (s.setDisp d)
  | ret (x : Nibble) : s.Writes (.ret x) s.pop
  | call (nnn : Addr) (h : s.sp < s.params.stackDepth) : s.Writes (.call nnn) (s.push (s.pc + 2))
  | ldI (nnn : Addr) (w : Word) : s.Writes (.ldI nnn) (s.setI w)
  | rnd (x : Nibble) (kk : Byte) (v : Vector Byte 16) : s.Writes (.rnd x kk) (s.countDraw.setRegs v)
  | drw (x y n : Nibble) (d : Display) (v : Vector Byte 16) : s.Writes (.drw x y n) ((s.setDisp d).setRegs v)
  | ldVxK (x : Nibble) (v : Vector Byte 16) : s.Writes (.ldVxK x) ((s.setWait false s.waitReg).setRegs v)
  | ldDtVx (x : Nibble) (b : Byte) : s.Writes (.ldDtVx x) (s.setDt b)
  | ldStVx (x : Nibble) (b : Byte) : s.Writes (.ldStVx x) (s.setSt b)
  | addIVx (x : Nibble) (w : Word) : s.Writes (.addIVx x) (s.setI w)
  | ldFVx (x : Nibble) (w : Word) : s.Writes (.ldFVx x) (s.setI w)
  | ldBVx (x : Nibble) (a : Nat) (bs : List Byte) : s.Writes (.ldBVx x) (s.setMem (s.mem.setBytes a bs))
  | ldMemVx (x : Nibble) (a : Nat) (bs : List Byte) (w : Word) :
      s.Writes (.ldMemVx x) ((s.setMem (s.mem.setBytes a bs)).setI w)
  | ldVxMem (x : Nibble) (v : Vector Byte 16) (w : Word) : s.Writes (.ldVxMem x) ((s.setRegs v).setI w)

/-- How an instruction can end: a fault and nothing else, Fx0A's wait, or its writes with a `pc` that passed the check. -/
inductive State.Effect (s : State) : Instr → State → Prop
  | fault (i : Instr) (c : FaultCause) : s.Effect i (s.faulted c)
  | wait (x : Nibble) : s.Effect (.ldVxK x) (s.setWait true x)
  | complete {i : Instr} {after : State} {target : Nat} (hw : s.Writes i after)
      (hl : pcLegal s.params target = true) : s.Effect i (after.setPc (BitVec.ofNat 16 target))

theorem State.Writes.of_setRegs {s after : State} {i : Instr} (h : after = s.setRegs after.v)
    (hi : ∀ x, i ≠ .ldVxK x) : s.Writes i after := by
  rw [h]; exact .regs i _ hi

theorem State.Effect.of_raise {s u : State} {i : Instr} {c : FaultCause} (h : s.raise c = .next u) :
    s.Effect i u := by
  rw [State.raise_cases h]; exact .fault i c

theorem State.Effect.of_commit {s after u : State} {i : Instr} {t : Nat} (h : s.commit t after = .next u)
    (hw : s.Writes i after) : s.Effect i u := by
  rcases State.commit_cases h with ⟨hl, rfl⟩ | ⟨-, rfl⟩
  · exact .complete hw hl
  · exact .fault i _

theorem State.Effect.of_commit_setRegs {s after u : State} {i : Instr} {t : Nat} (h : s.commit t after = .next u)
    (ha : after = s.setRegs after.v) (hi : ∀ x, i ≠ .ldVxK x) : s.Effect i u :=
  .of_commit h (.of_setRegs ha hi)

/-- Everything an instruction can do, with the fields it may write: the one place that goes through the handlers. -/
theorem exec_effect {i : Instr} {s t : State} (h : exec i s = .next t) : s.Effect i t := by
  cases i
  case cls x => exact .of_commit h (.cls x _)
  case ret x =>
    simp only [exec, execRet] at h
    split at h
    · exact .of_raise h
    · exact .of_commit h (.ret x)
  case call nnn =>
    simp only [exec, execCall] at h
    split at h
    · exact .of_raise h
    · exact .of_commit h (.call nnn (by omega))
  case ldI nnn => exact .of_commit h (.ldI nnn _)
  case rnd x kk => exact .of_commit h (.rnd x kk (s.setReg x _).v)
  case drw x y n =>
    simp only [exec, execDrw] at h
    split at h
    · exact .of_raise h
    · split at h
      · exact .of_raise h
      · exact .of_commit h (.drw x y n _ (s.setReg 15 _).v)
  case ldVxK x =>
    simp only [exec, execLdVxK] at h
    split at h
    · exact .of_commit h (.ldVxK x (s.setReg x _).v)
    · injection h with h; subst h; exact .wait x
  case ldDtVx x => exact .of_commit h (.ldDtVx x _)
  case ldStVx x => exact .of_commit h (.ldStVx x _)
  case addIVx x => exact .of_commit h (.addIVx x _)
  case ldFVx x => exact .of_commit h (.ldFVx x _)
  case ldBVx x =>
    simp only [exec, execLdBVx] at h
    split at h
    · exact .of_raise h
    · exact .of_commit h (.ldBVx x _ _)
  case ldMemVx x =>
    simp only [exec, execLdMemVx] at h
    split at h
    · exact .of_raise h
    · exact .of_commit h (.ldMemVx x _ _ _)
  case ldVxMem x =>
    simp only [exec, execLdVxMem] at h
    split at h
    · exact .of_raise h
    · exact .of_commit h (.ldVxMem x _ _)
  case skp =>
    simp only [exec, execSkp] at h
    split at h
    · exact .of_raise h
    · exact .of_commit_setRegs h rfl nofun
  case sknp =>
    simp only [exec, execSknp] at h
    split at h
    · exact .of_raise h
    · exact .of_commit_setRegs h rfl nofun
  case orReg => exact .of_commit_setRegs h (State.setLogic_eq _ _ _) nofun
  case andReg => exact .of_commit_setRegs h (State.setLogic_eq _ _ _) nofun
  case xorReg => exact .of_commit_setRegs h (State.setLogic_eq _ _ _) nofun
  all_goals exact .of_commit_setRegs h rfl nofun

/-- Everything a step can do, as an effect: a fault, or the effect of the instruction at `pc`. -/
theorem step_cases {s t : State} (h : step s = .next t) :
    (∃ c, t = s.faulted c) ∨
    ∃ w i, s.fetch = some w ∧ dispatch s.params.decodeStrict w = .ok i ∧ s.Effect i t := by
  obtain ⟨-, ⟨-, rfl⟩ | ⟨_, _, -, -, rfl⟩ | ⟨w, i, hf, hd, he⟩⟩ := cycle_cases h
  · exact .inl ⟨_, rfl⟩
  · exact .inl ⟨_, rfl⟩
  · exact .inr ⟨w, i, hf, hd, exec_effect he⟩

/-! ### What no instruction writes -/

/-- The state no instruction writes: keys, frame count, audio queue, phase and parameters (10_state R30, R35, R36). -/
abbrev State.hostStateKept (s t : State) : Prop :=
  t.keys = s.keys ∧ t.framesProcessed = s.framesProcessed ∧ t.queue = s.queue ∧ t.phase = s.phase ∧
    t.params = s.params

theorem State.Writes.hostStateKept {s t : State} {i : Instr} (h : s.Writes i t) : s.hostStateKept t := by
  cases h <;> exact ⟨rfl, rfl, rfl, rfl, rfl⟩

theorem State.Effect.hostStateKept {s t : State} {i : Instr} (h : s.Effect i t) : s.hostStateKept t := by
  cases h with
  | complete hw _ => exact hw.hostStateKept
  | _ => exact ⟨rfl, rfl, rfl, rfl, rfl⟩

theorem step_hostStateKept {s t : State} (h : step s = .next t) : s.hostStateKept t := by
  obtain ⟨_, rfl⟩ | ⟨_, _, -, -, he⟩ := step_cases h
  · exact ⟨rfl, rfl, rfl, rfl, rfl⟩
  · exact he.hostStateKept

/-- Settles O19: no constructor of `State.Writes` touches these fields. -/
theorem stepLeavesHostStateAlone : Obligations.StepLeavesHostStateAlone :=
  fun _ _ h => step_hostStateKept h

/-- Settles O17: a fault and Fx0A's wait touch none of the three, and `State.Writes` lists who does. -/
theorem writersOfIndexMemoryAndStack : Obligations.WritersOfIndexMemoryAndStack := by
  intro i s t h
  cases exec_effect h with
  | fault _ _ => simp
  | wait _ => simp
  | complete hw _ => cases hw <;> simp

/-- Settles O18: a fault touches none of the four, and `State.Writes` lists who does. -/
theorem writersOfTimersDisplayAndWaitLatch : Obligations.WritersOfTimersDisplayAndWaitLatch := by
  intro i s t h
  cases exec_effect h with
  | fault _ _ => simp
  | wait _ => simp
  | complete hw _ => cases hw <;> simp

/-! ### The program counter -/

theorem State.Effect.pc_cases {s t : State} {i : Instr} (h : s.Effect i t) :
    t.pc = s.pc ∨ pcLegal s.params t.pc.toNat = true := by
  cases h with
  | complete _ hl => right; rwa [State.setPc_pc, toNat_of_pcLegal hl]
  | _ => exact .inl rfl

theorem step_pc_cases {s t : State} (h : step s = .next t) :
    t.pc = s.pc ∨ pcLegal s.params t.pc.toNat = true := by
  obtain ⟨_, rfl⟩ | ⟨_, _, -, -, he⟩ := step_cases h
  · exact .inl rfl
  · exact he.pc_cases

theorem pcLegal_progBase (p : Config.Params) : pcLegal p 0x200 = true :=
  (pcLegal_iff p _).2 ⟨by decide, fun _ => rfl⟩

/-- `load` restarts at 0x200; of the other operations only `step` writes `pc`, with its check (10_state R24). -/
theorem HostOp.apply_pc_cases (r : Config.Rates) (op : HostOp) (s : State) :
    (op.apply r s).pc = s.pc ∨ pcLegal s.params (op.apply r s).pc.toNat = true := by
  cases op with
  | load image =>
    simp only [HostOp.apply, State.load]
    split
    · exact .inl rfl
    · exact .inr (pcLegal_progBase _)
  | step =>
    simp only [HostOp.apply]
    split
    · exact step_pc_cases ‹_›
    · exact .inl rfl
    · exact .inl rfl
  | tickFrame elapsed =>
    simp only [HostOp.apply, State.tickFrame]
    split <;> exact .inl rfl
  | setKey index pressed => exact .inl rfl
  | getDisplay => exact .inl rfl
  | fillAudio len => exact .inl rfl

/-- Settles O15: an operation keeps `pc`, or gives it a value that passes the check. -/
theorem pcStaysEvenInsideMemory : Obligations.PcStaysEvenInsideMemory := by
  refine ⟨rfl, fun r op s halign hpc => ?_⟩
  rcases HostOp.apply_pc_cases r op s with hkept | hlegal
  · rwa [hkept]
  · obtain ⟨hle, heven⟩ := (pcLegal_iff _ _).1 hlegal
    exact ⟨heven halign, by omega⟩

end Sys2Proof.Machine
end

section
/-! PROOFS. The invariant of the engine: it holds at reset, and every step keeps it. -/

namespace Sys2Proof.Machine

/-! ### The word of Fx0A -/

/-- Of the dispatcher's arms, one alone answers Fx0A (30_encoding R80). -/
theorem dispatchFields_eq_ldVxK {d : Fields} {x : Nibble} (h : dispatchFields d = some (.ldVxK x)) :
    d.f = 0xF ∧ d.kk = 0x0A ∧ d.x = x := by
  unfold dispatchFields dispatchFamily0 dispatchFamily8 dispatchFamilyE dispatchFamilyF at h
  split at h
  all_goals try split at h -- the families 0x0, 0x8, 0xE and 0xF have a second key
  all_goals cases h
  exact ⟨BitVec.eq_of_toNat_eq ‹_›, BitVec.eq_of_toNat_eq ‹_›, rfl⟩

/-- Fx0A is the instruction of its own word alone. -/
theorem dispatch_eq_ldVxK {strict : Bool} {w : Word} {x : Nibble} :
    dispatch strict w = .ok (.ldVxK x) ↔ w = encode (.ldVxK x) := by
  constructor
  · intro h
    have hf : dispatchFields (decodeFields w) = some (.ldVxK x) := by
      unfold dispatch at h
      split at h
      · cases h
      · split at h <;> cases h; assumption
    obtain ⟨hf, hkk, hx⟩ := dispatchFields_eq_ldVxK hf
    rw [← packXKk_decodeFields w, hf, hkk, hx, encode]
  · rintro rfl
    apply dispatch_of_dispatchFields
    · simp [encode, dispatchFields, dispatchFamilyF, decodeFields_packXKk_f, decodeFields_packXKk_x,
        decodeFields_packXKk_kk]
    · rfl

/-! ### What an instruction's writes keep of the invariant -/

theorem State.Writes.mem_wf {s t : State} {i : Instr} (h : s.Writes i t) (hm : Memory.wf s.mem) :
    Memory.wf t.mem := by
  cases h with
  | ldBVx _ a bs => exact Memory.wf_setBytes _ a bs hm
  | ldMemVx _ a bs _ => exact Memory.wf_setBytes _ a bs hm
  | _ => exact hm

theorem State.Writes.stackInv {s t : State} {i : Instr} (h : s.Writes i t) (hs : s.stackInv) : t.stackInv := by
  obtain ⟨hsp, hlen⟩ := hs
  cases h with
  | ret _ => exact ⟨(Nat.sub_le _ _).trans hsp, hlen⟩
  | call _ hroom => exact ⟨hroom, List.length_set.trans hlen⟩
  | _ => exact ⟨hsp, hlen⟩

/-- The return address CALL pushes: a fetched CALL stands at 0xFFE or below. -/
theorem State.toNat_pc_add_two {s : State} (hf : s.pc.toNat + 1 ≤ 0xFFF) : (s.pc + 2).toNat = s.pc.toNat + 2 := by
  bv_omega

theorem State.Writes.returnsInv {s t : State} {i : Instr} (h : s.Writes i t) (hr : s.returnsInv)
    (hpc : s.pcInv) (hf : s.pc.toNat + 1 ≤ 0xFFF) : t.returnsInv := by
  cases h with
  | call _ _ =>
    intro a ha
    rcases List.mem_or_eq_of_mem_set ha with hold | rfl
    · exact hr a hold
    · obtain ⟨-, heven⟩ := (pcLegal_iff _ _).1 hpc
      rw [State.toNat_pc_add_two hf]
      exact ⟨by omega, fun halign => by have := heven halign; omega⟩
  | _ => exact hr

theorem State.Writes.faultLatch {s t : State} {i : Instr} (h : s.Writes i t) : t.faultLatch = s.faultLatch := by
  cases h <;> rfl

/-- Only a machine that waited before still waits, and not after Fx0A completed. -/
theorem State.Writes.waiting {s t : State} {i : Instr} (h : s.Writes i t) (hw : t.waiting = true) :
    s.waiting = true ∧ ∀ x, i ≠ .ldVxK x := by
  cases h with
  | regs _ _ hi => exact ⟨hw, hi⟩
  | ldVxK _ _ => cases hw
  | _ => exact ⟨hw, nofun⟩

/-! ### The invariant -/

/-- A fault adds the record of the instruction at `pc`, and nothing else. -/
theorem State.Inv.faulted {s : State} (h : s.Inv) (c : FaultCause) : (s.faulted c).Inv where
  mem := h.mem
  pc := h.pc
  stack := h.stack
  returns := h.returns
  queue := h.queue
  latch r hr := by injection hr with hr; subst hr; exact ⟨rfl, (State.fetch_faulted s c).symm⟩
  wait hw := (State.fetch_faulted s c).trans (h.wait hw)

/-- Fx0A with no key pressed leaves the machine waiting at its own word. -/
theorem State.Inv.setWait {s : State} {x : Nibble} (h : s.Inv) (hf : s.fetch = some (encode (.ldVxK x))) :
    (s.setWait true x).Inv where
  mem := h.mem
  pc := h.pc
  stack := h.stack
  returns := h.returns
  queue := h.queue
  latch := h.latch
  wait _ := hf

/-- A completed instruction runs on a machine that is not halted, and ends a wait: what waits is Fx0A. -/
theorem State.Inv.complete {s after : State} {i : Instr} {w : Word} {target : Nat} (h : s.Inv)
    (hlatch : s.faultLatch = none) (hf : s.fetch = some w) (hd : dispatch s.params.decodeStrict w = .ok i)
    (hw : s.Writes i after) (hl : pcLegal s.params target = true) :
    (after.setPc (BitVec.ofNat 16 target)).Inv where
  mem := hw.mem_wf h.mem
  pc := by
    obtain ⟨-, -, -, -, hparams⟩ := hw.hostStateKept
    show pcLegal after.params (BitVec.ofNat 16 target : Word).toNat = true
    rwa [toNat_of_pcLegal hl, hparams]
  stack := hw.stackInv h.stack
  returns := hw.returnsInv h.returns h.pc (State.fetch_some_bound hf)
  queue := by
    obtain ⟨-, -, hqueue, -⟩ := hw.hostStateKept
    show ∀ g ∈ after.queue, 1 ≤ g.count
    rw [hqueue]; exact h.queue
  latch r hr := by
    have hnone : after.faultLatch = none := hw.faultLatch.trans hlatch
    exact absurd (hnone.symm.trans hr) nofun
  wait hwait := by
    obtain ⟨hwaited, hne⟩ := hw.waiting hwait
    have hword : w = encode (.ldVxK s.waitReg) := Option.some.inj (hf.symm.trans (h.wait hwaited))
    have hi : i = .ldVxK s.waitReg := Except.ok.inj (hd.symm.trans (dispatch_eq_ldVxK.2 hword))
    exact absurd hi (hne _)

/-- Settles O13: a faulted, a waiting and a completed instruction each keep the invariant. -/
theorem stepKeepsTheInvariant : Obligations.StepKeepsTheInvariant := by
  intro s t h hstep
  obtain ⟨hlatch, -⟩ := cycle_cases hstep
  obtain ⟨c, rfl⟩ | ⟨w, i, hf, hd, he⟩ := step_cases hstep
  · exact h.faulted c
  · cases he with
    | fault _ c => exact h.faulted c
    | wait x => exact h.setWait (dispatch_eq_ldVxK.1 hd ▸ hf)
    | complete hw hl => exact h.complete hlatch hf hd hw hl

/-- Settles O12: the stack holds zeros, and the queue, the latch and the wait flag are empty. -/
theorem resetMeetsTheInvariant : Obligations.ResetMeetsTheInvariant where
  mem := State.reset_mem_wf
  pc := pcLegal_progBase _
  stack := ⟨Nat.zero_le _, List.length_replicate⟩
  returns a ha := by
    rw [List.eq_of_mem_replicate ha]
    exact ⟨by decide, fun _ => rfl⟩
  queue := nofun
  latch := nofun
  wait := nofun

end Sys2Proof.Machine
end

section
/-! PROOFS. What `load` gives every piece of state, and reset as the load of the empty image. -/

namespace Sys2Proof.Machine

/-! ### Memory after load -/

/-- Above the font, memory nothing has written reads 0. -/
theorem Memory.initial_eq_zero {a : Nat} (h : 80 ≤ a) : Memory.initial a = 0 := by
  unfold Memory.initial
  rw [Vector.getElem?_eq_none h]; rfl

/-- Storing what an unlisted address reads as lists nothing. -/
theorem Memory.setBytes_nil_initial (a : Nat) (bs : List Byte)
    (h : ∀ (j : Nat) (hj : j < bs.length), bs[j] = Memory.initial (a + j)) : Memory.setBytes [] a bs = [] := by
  induction bs generalizing a with
  | nil => rfl
  | cons b bs ih =>
    have hb : b = Memory.initial a := h 0 (by simp)
    have hset : Memory.set [] a b = [] := by simp [Memory.set, Memory.unlist, hb]
    rw [Memory.setBytes, hset]
    refine ih (a + 1) fun j hj => ?_
    have := h (j + 1) (by simpa using hj)
    rwa [List.getElem_cons_succ, ← Nat.add_assoc, Nat.add_right_comm] at this

theorem loadedMemory_font (p : Config.Params) (image : List Byte) {a : Nat} (h : a < 80) :
    (loadedMemory p image).get a = p.font[a] := by
  have hbelow : a < Config.progBase := h.trans (by decide)
  have hread : (Memory.setBytes [] 0 p.font.toList).get (0 + a) = p.font[a] :=
    Memory.get_setBytes_inside [] 0 a _ _ (by simp [h]) (by omega)
  rw [loadedMemory, Memory.get_setBytes_outside _ _ _ _ (.inl hbelow)]
  rwa [Nat.zero_add] at hread

theorem loadedMemory_image (p : Config.Params) (image : List Byte) (hfit : image.length ≤ 3584) {a : Nat}
    (h : a < image.length) : (loadedMemory p image).get (0x200 + a) = image[a] :=
  Memory.get_setBytes_inside _ 0x200 a image _ (List.getElem?_eq_getElem h) (by omega)

theorem loadedMemory_outside (p : Config.Params) (image : List Byte) {a : Nat} (hfont : 80 ≤ a)
    (himage : a < Config.progBase ∨ Config.progBase + image.length ≤ a) : (loadedMemory p image).get a = 0 := by
  rw [loadedMemory, Memory.get_setBytes_outside _ _ _ _ himage,
    Memory.get_setBytes_outside _ _ _ _ (.inr (by simpa using hfont))]
  exact Memory.initial_eq_zero hfont

/-- The conventional font over the conventional font lists nothing (log 8). -/
theorem loadedMemory_conventionalFont (p : Config.Params) (h : p.font = conventionalFont) :
    loadedMemory p [] = [] := by
  refine Memory.setBytes_nil_initial 0 _ fun j hj => ?_
  have hj : j < 80 := by simpa using hj
  rw [Memory.initial, ← h]
  simp [hj]

/-! ### Load -/

theorem State.load_refused (s : State) {image : List Byte} (h : image.length > 3584) : s.load image = none :=
  if_pos h

theorem State.load_accepted (s : State) {image : List Byte} (h : image.length ≤ 3584) :
    s.load image = some (loadedState s.params s.draws image) :=
  if_neg (Nat.not_lt.2 h)

theorem State.reg_reset (x : Nibble) : State.reset.reg x = 0 := by
  simp [State.reg, State.reset]

theorem State.key_reset (k : Nat) : State.reset.key k = false := by
  by_cases h : k < 16 <;> simp [State.key, State.reset, h]

/-- Settles O57: the memory laws region by region; every other field is that of reset, with the stack at the capacity. -/
theorem loadGivesEveryPieceItsValue : Obligations.LoadGivesEveryPieceItsValue := by
  intro image s
  refine ⟨fun hlong => State.load_refused s hlong, fun hfit => ⟨_, State.load_accepted s hfit, ?_⟩⟩
  refine ⟨fun a h => loadedMemory_font _ _ h, fun a hfont h => loadedMemory_outside _ _ hfont (.inl h),
    fun a h => loadedMemory_image _ _ hfit h, fun a h _ => loadedMemory_outside _ _ (by omega) (.inr h),
    State.reg_reset, rfl, rfl, rfl, rfl, rfl, rfl, State.key_reset, Display.cell_clear, rfl, rfl, rfl, rfl, rfl, rfl⟩

/-! ### Reset -/

theorem State.load_reset : State.reset.load [] = some State.reset := by
  rw [State.load_accepted _ (Nat.zero_le _)]
  show some { State.reset with mem := loadedMemory defaultParams [] } = _
  rw [loadedMemory_conventionalFont _ rfl]; rfl

theorem State.fetch_reset : State.reset.fetch = some 0x0000 := by
  rw [State.fetch_inside _ (by decide)]
  show some (wordOfBytes (Memory.initial 0x200) (Memory.initial 0x201)) = _
  rw [Memory.initial_eq_zero (by decide), Memory.initial_eq_zero (by decide)]; rfl

/-- An illegal word that was fetched is latched (30_encoding R82, R86). -/
theorem step_illegal {s : State} {w : Word} {e : DecodeError} (hlatch : s.faultLatch = none)
    (hf : s.fetch = some w) (hd : dispatch s.params.decodeStrict w = .error e) :
    step s = .next (s.faulted .illegalInstruction) := by
  simp [step, cycle, hlatch, hf, hd, State.raise]

/-- Settles O58: memory outside the font is zero, so the word at 0x200 is 0x0000, which no row of R81 maps. -/
theorem resetIsLoadOfTheEmptyImage : Obligations.ResetIsLoadOfTheEmptyImage := by
  refine ⟨State.load_reset, rfl, rfl, rfl, State.fetch_reset, ?_⟩
  rw [step_illegal rfl State.fetch_reset (e := .illegalInstruction 0) rfl, State.faulted, State.record,
    State.fetch_reset]
  rfl

end Sys2Proof.Machine
end

section
/-! PROOFS. The instructions that store to memory, and the fetch that follows them. -/

namespace Sys2Proof.Machine

/-! ### What a step without a fault has done -/

/-- A legal word that was fetched is executed (30_encoding R86). -/
theorem step_legal {s : State} {w : Word} {i : Instr} (hlatch : s.faultLatch = none) (hf : s.fetch = some w)
    (hd : dispatch s.params.decodeStrict w = .ok i) : step s = exec i s := by
  simp [step, cycle, hlatch, hf, hd]

theorem State.raise_latched {s t : State} {c : FaultCause} (h : s.raise c = .next t) : t.faultLatch ≠ none := by
  rw [State.raise_cases h]; exact nofun

/-- A fall-through that raised no fault made the handler's writes. -/
theorem State.fallThrough_completes {s after t : State} (h : s.fallThrough after = .next t)
    (ht : t.faultLatch = none) : t = after.setPc (BitVec.ofNat 16 (s.pc.toNat + 2)) := by
  rcases State.fallThrough_cases h with ⟨-, hdone⟩ | ⟨-, rfl⟩
  · exact hdone
  · cases ht

/-! ### Memory after a store -/

/-- A memory after a store is any byte map that has the stored bytes in their range and the old memory elsewhere. -/
theorem Memory.get_setBytes_eq (m : Memory) (a : Nat) (bs : List Byte) (byteAt : Nat → Byte)
    (hfit : a + bs.length ≤ 4096) (hin : ∀ (j : Nat) (hj : j < bs.length), bs[j] = byteAt (a + j))
    (hout : ∀ b, b < a ∨ a + bs.length ≤ b → byteAt b = m.get b) (b : Nat) :
    (m.setBytes a bs).get b = byteAt b := by
  by_cases h : b < a ∨ a + bs.length ≤ b
  · rw [Memory.get_setBytes_outside m a b bs h, hout b h]
  · obtain ⟨j, rfl⟩ : ∃ j, b = a + j := ⟨b - a, by omega⟩
    have hj : j < bs.length := by omega
    rw [Memory.get_setBytes_inside m a j bs _ (List.getElem?_eq_getElem hj) (by omega), hin j hj]

/-- The word fetched from a memory given as a byte map. -/
theorem State.fetch_of_get {s : State} {byteAt : Nat → Byte} (hpc : s.pc.toNat ≤ 0xFFE)
    (h : ∀ a, s.mem.get a = byteAt a) :
    s.fetch = some (wordOfBytes (byteAt s.pc.toNat) (byteAt (s.pc.toNat + 1))) := by
  rw [State.fetch_inside s (by omega), h, h]

/-! ### Fx55 LD [I], Vx -/

theorem dispatch_ldMemVx (strict : Bool) (x : Nibble) :
    dispatch strict (packXKk 0xF x 0x55) = .ok (.ldMemVx x) := by
  apply dispatch_of_dispatchFields
  · simp [dispatchFields, dispatchFamilyF, decodeFields_packXKk_f, decodeFields_packXKk_x, decodeFields_packXKk_kk]
  · rfl

theorem exec_ldMemVx_inside {x : Nibble} {s : State} (h : s.i.toNat + x.toNat ≤ 0xFFF) :
    exec (.ldMemVx x) s = s.fallThrough ((s.setMem (s.mem.setBytes s.i.toNat (s.regsUpTo x))).setI
      (BitVec.ofNat 16 (s.i.toNat + x.toNat + 1))) := by
  simp only [exec, execLdMemVx, State.accessFault_inside s _ h]

theorem exec_ldMemVx_outside {x : Nibble} {s : State} (h : 0xFFF < s.i.toNat + x.toNat) :
    exec (.ldMemVx x) s = s.raise (.memoryOutOfBounds (max s.i.toNat 0x1000)) := by
  simp only [exec, execLdMemVx, State.accessFault_outside s _ h]

theorem exec_ldMemVx_completes {x : Nibble} {s t : State} (h : exec (.ldMemVx x) s = .next t)
    (ht : t.faultLatch = none) :
    s.i.toNat + x.toNat ≤ 0xFFF ∧ t.mem = s.mem.setBytes s.i.toNat (s.regsUpTo x) := by
  rcases Nat.lt_or_ge 0xFFF (s.i.toNat + x.toNat) with hout | hin
  · exact absurd ht (State.raise_latched ((exec_ldMemVx_outside hout).symm.trans h))
  · rw [State.fallThrough_completes ((exec_ldMemVx_inside hin).symm.trans h) ht]
    exact ⟨hin, rfl⟩

/-- The registers a store writes, by the plain number of each. -/
theorem State.getElem_regsUpTo_nat (s : State) (x : Nibble) {j : Nat} (hj : j < (s.regsUpTo x).length) :
    ∃ r : Nibble, r.toNat = j ∧ r.toNat ≤ x.toNat ∧ (s.regsUpTo x)[j] = s.reg r := by
  have hle : j ≤ x.toNat := by rw [State.length_regsUpTo] at hj; omega
  refine ⟨BitVec.ofNatLT j (hle.trans_lt x.isLt), rfl, hle, Option.some.inj ?_⟩
  rw [← List.getElem?_eq_getElem hj]
  exact State.getElem_regsUpTo s (j := BitVec.ofNatLT j _) hle

/-! ### Fx33 LD B, Vx -/

theorem dispatch_ldBVx (strict : Bool) (x : Nibble) :
    dispatch strict (packXKk 0xF x 0x33) = .ok (.ldBVx x) := by
  apply dispatch_of_dispatchFields
  · simp [dispatchFields, dispatchFamilyF, decodeFields_packXKk_f, decodeFields_packXKk_x, decodeFields_packXKk_kk]
  · rfl

theorem exec_ldBVx_inside {x : Nibble} {s : State} (h : s.i.toNat + 2 ≤ 0xFFF) :
    exec (.ldBVx x) s = s.fallThrough (s.setMem (s.mem.setBytes s.i.toNat (bcdDigits (s.reg x)))) := by
  simp only [exec, execLdBVx, State.accessFault_inside s _ h]

theorem exec_ldBVx_outside {x : Nibble} {s : State} (h : 0xFFF < s.i.toNat + 2) :
    exec (.ldBVx x) s = s.raise (.memoryOutOfBounds (max s.i.toNat 0x1000)) := by
  simp only [exec, execLdBVx, State.accessFault_outside s _ h]

theorem exec_ldBVx_completes {x : Nibble} {s t : State} (h : exec (.ldBVx x) s = .next t)
    (ht : t.faultLatch = none) :
    s.i.toNat + 2 ≤ 0xFFF ∧ t.mem = s.mem.setBytes s.i.toNat (bcdDigits (s.reg x)) := by
  rcases Nat.lt_or_ge 0xFFF (s.i.toNat + 2) with hout | hin
  · exact absurd ht (State.raise_latched ((exec_ldBVx_outside hout).symm.trans h))
  · rw [State.fallThrough_completes ((exec_ldBVx_inside hin).symm.trans h) ht]
    exact ⟨hin, rfl⟩

/-- Three bytes with the values of a byte's hundreds, tens and units are its digits. -/
theorem bcdDigits_eq {v b0 b1 b2 : Byte} (h0 : b0.toNat = v.toNat / 100) (h1 : b1.toNat = v.toNat / 10 % 10)
    (h2 : b2.toNat = v.toNat % 10) : bcdDigits v = [b0, b1, b2] := by
  rw [bcdDigits, ← h0, ← h1, ← h2]
  simp only [BitVec.ofNat_toNat, BitVec.setWidth_eq]

/-! ### The next fetch -/

/-- After Fx55 memory is the stored registers in their range, and the old memory elsewhere. -/
theorem exec_ldMemVx_get {x : Nibble} {s t : State} {byteAt : Nat → Byte} (h : exec (.ldMemVx x) s = .next t)
    (ht : t.faultLatch = none) (hin : ∀ r : Nibble, r.toNat ≤ x.toNat → byteAt (s.i.toNat + r.toNat) = s.reg r)
    (hout : ∀ a, a < s.i.toNat ∨ s.i.toNat + x.toNat < a → byteAt a = s.mem.get a) (a : Nat) :
    t.mem.get a = byteAt a := by
  obtain ⟨hbound, hmem⟩ := exec_ldMemVx_completes h ht
  rw [hmem]
  apply Memory.get_setBytes_eq
  case hfit => rw [State.length_regsUpTo]; omega
  case hin =>
    intro j hj
    obtain ⟨r, rfl, hle, hreg⟩ := s.getElem_regsUpTo_nat x hj
    rw [hreg, hin r hle]
  case hout =>
    intro b hb
    rw [State.length_regsUpTo] at hb
    exact hout b (by omega)

/-- After Fx33 memory is the stored digits in their range, and the old memory elsewhere. -/
theorem exec_ldBVx_get {x : Nibble} {s t : State} {byteAt : Nat → Byte} (h : exec (.ldBVx x) s = .next t)
    (ht : t.faultLatch = none)
    (hin : bcdDigits (s.reg x) = [byteAt s.i.toNat, byteAt (s.i.toNat + 1), byteAt (s.i.toNat + 2)])
    (hout : ∀ a, a < s.i.toNat ∨ s.i.toNat + 2 < a → byteAt a = s.mem.get a) (a : Nat) :
    t.mem.get a = byteAt a := by
  obtain ⟨hbound, hmem⟩ := exec_ldBVx_completes h ht
  rw [hmem, hin]
  apply Memory.get_setBytes_eq
  case hfit => show _ + 3 ≤ _; omega
  case hin =>
    intro j hj
    match j, hj with
    | 0, _ => rfl
    | 1, _ => rfl
    | 2, _ => rfl
  case hout => exact hout

/-- Settles O50: memory after the store is the map `newByte`, and the next fetch reads two bytes of it. -/
theorem storeIsSeenByTheNextFetch : Obligations.StoreIsSeenByTheNextFetch := by
  intro x s t newByte hs hstep ht
  constructor
  · intro hf hnew hpc
    have hexec : exec (.ldMemVx x) s = .next t := (step_legal hs hf (dispatch_ldMemVx _ x)).symm.trans hstep
    exact State.fetch_of_get hpc
      (exec_ldMemVx_get hexec ht (fun r hr => (hnew _).1 r hr rfl) fun a => (hnew a).2)
  · intro hf h0 h1 h2 hout hpc
    have hexec : exec (.ldBVx x) s = .next t := (step_legal hs hf (dispatch_ldBVx _ x)).symm.trans hstep
    exact State.fetch_of_get hpc (exec_ldBVx_get hexec ht (bcdDigits_eq h0 h1 h2) hout)

end Sys2Proof.Machine
end

section
/-! PROOFS. The dispatcher and the encoder are inverse to each other (30_encoding R71 to R81). -/

namespace Sys2Proof

/-! ### A word whose key is known is the layout of its other fields -/

theorem packNnn_of_key {w : Word} {f : Nibble} (hf : (decodeFields w).f.toNat = f.toNat) :
    packNnn f (decodeFields w).nnn = w := by
  rw [← BitVec.eq_of_toNat_eq hf, packNnn_decodeFields]

theorem packXKk_of_key {w : Word} {f : Nibble} (hf : (decodeFields w).f.toNat = f.toNat) :
    packXKk f (decodeFields w).x (decodeFields w).kk = w := by
  rw [← BitVec.eq_of_toNat_eq hf, packXKk_decodeFields]

theorem packXYN_of_key {w : Word} {f : Nibble} (hf : (decodeFields w).f.toNat = f.toNat) :
    packXYN f (decodeFields w).x (decodeFields w).y (decodeFields w).n = w := by
  rw [← BitVec.eq_of_toNat_eq hf, packXYN_decodeFields]

theorem packXKk_of_keys {w : Word} {f : Nibble} {kk : Byte} (hf : (decodeFields w).f.toNat = f.toNat)
    (hkk : (decodeFields w).kk.toNat = kk.toNat) : packXKk f (decodeFields w).x kk = w := by
  rw [← BitVec.eq_of_toNat_eq hkk, packXKk_of_key hf]

theorem packXYN_of_keys {w : Word} {f n : Nibble} (hf : (decodeFields w).f.toNat = f.toNat)
    (hn : (decodeFields w).n.toNat = n.toNat) : packXYN f (decodeFields w).x (decodeFields w).y n = w := by
  rw [← BitVec.eq_of_toNat_eq hn, packXYN_of_key hf]

/-! ### The dispatcher inverts the encoder -/

theorem encode_of_dispatchFamily0 {w : Word} {i : Instr} (hf : (decodeFields w).f.toNat = 0x0)
    (h : dispatchFamily0 (decodeFields w) = some i) : encode i = w := by
  unfold dispatchFamily0 at h
  split at h <;> cases h <;> exact packXKk_of_keys hf ‹_›

theorem encode_of_dispatchFamily8 {w : Word} {i : Instr} (hf : (decodeFields w).f.toNat = 0x8)
    (h : dispatchFamily8 (decodeFields w) = some i) : encode i = w := by
  unfold dispatchFamily8 at h
  split at h <;> cases h <;> exact packXYN_of_keys hf ‹_›

theorem encode_of_dispatchFamilyE {w : Word} {i : Instr} (hf : (decodeFields w).f.toNat = 0xE)
    (h : dispatchFamilyE (decodeFields w) = some i) : encode i = w := by
  unfold dispatchFamilyE at h
  split at h <;> cases h <;> exact packXKk_of_keys hf ‹_›

theorem encode_of_dispatchFamilyF {w : Word} {i : Instr} (hf : (decodeFields w).f.toNat = 0xF)
    (h : dispatchFamilyF (decodeFields w) = some i) : encode i = w := by
  unfold dispatchFamilyF at h
  split at h <;> cases h <;> exact packXKk_of_keys hf ‹_›

theorem encode_of_dispatchFields {w : Word} {i : Instr} (h : dispatchFields (decodeFields w) = some i) :
    encode i = w := by
  unfold dispatchFields at h
  split at h -- one case per family, in the order of the top nibble; the last is no nibble
  case h_1 hf => exact encode_of_dispatchFamily0 hf h
  case h_9 hf => exact encode_of_dispatchFamily8 hf h
  case h_15 hf => exact encode_of_dispatchFamilyE hf h
  case h_16 hf => exact encode_of_dispatchFamilyF hf h
  case h_2 hf | h_3 hf | h_11 hf | h_12 hf => cases h; exact packNnn_of_key hf
  case h_4 hf | h_5 hf | h_7 hf | h_8 hf | h_13 hf => cases h; exact packXKk_of_key hf
  case h_6 hf | h_10 hf | h_14 hf => cases h; exact packXYN_of_key hf
  case h_17 => cases h

theorem dispatchFields_encode (i : Instr) : dispatchFields (decodeFields (encode i)) = some i := by
  cases i
  case jp | call | ldI | jpV0 =>
    simp [encode, dispatchFields, decodeFields_packNnn_f, decodeFields_packNnn_nnn]
  case seByte | sneByte | ldByte | addByte | rnd =>
    simp [encode, dispatchFields, decodeFields_packXKk_f, decodeFields_packXKk_x, decodeFields_packXKk_kk]
  case seReg | sneReg | drw =>
    simp [encode, dispatchFields, decodeFields_packXYN_f, decodeFields_packXYN_x, decodeFields_packXYN_y,
      decodeFields_packXYN_n]
  case cls | ret =>
    simp [encode, dispatchFields, dispatchFamily0, decodeFields_packXKk_f, decodeFields_packXKk_x,
      decodeFields_packXKk_kk]
  case skp | sknp =>
    simp [encode, dispatchFields, dispatchFamilyE, decodeFields_packXKk_f, decodeFields_packXKk_x,
      decodeFields_packXKk_kk]
  case ldReg | orReg | andReg | xorReg | addReg | sub | shr | subn | shl =>
    simp [encode, dispatchFields, dispatchFamily8, decodeFields_packXYN_f, decodeFields_packXYN_x,
      decodeFields_packXYN_y, decodeFields_packXYN_n]
  all_goals
    simp [encode, dispatchFields, dispatchFamilyF, decodeFields_packXKk_f, decodeFields_packXKk_x,
      decodeFields_packXKk_kk]

/-- On the fields of words, the dispatcher is the inverse of the encoder. -/
theorem dispatchFields_eq_some_iff {w : Word} {i : Instr} :
    dispatchFields (decodeFields w) = some i ↔ encode i = w :=
  ⟨encode_of_dispatchFields, fun h => h ▸ dispatchFields_encode i⟩

/-- A word dispatches to an instruction exactly when it is its word and no don't-care bit is judged wrong. -/
theorem dispatch_eq_ok_iff {strict : Bool} {w : Word} {i : Instr} :
    dispatch strict w = .ok i ↔ encode i = w ∧ i.wellFormed strict = true := by
  rw [← dispatchFields_eq_some_iff]
  constructor
  · intro h
    unfold dispatch at h
    split at h
    · cases h
    · split at h
      · cases h; exact ⟨‹_›, ‹_›⟩
      · cases h
  · rintro ⟨hd, hw⟩
    exact Machine.dispatch_of_dispatchFields hd hw

/-- The two bytes of a word that dispatches are decoded alone, whatever follows them. -/
theorem decodeBytes_encodeBytes {strict : Bool} {i : Instr} (h : dispatch strict (encode i) = .ok i)
    (rest : List Byte) : decodeBytes strict (encodeBytes i ++ rest) = .ok (i, rest) := by
  show decodeBytes strict (hiByte (encode i) :: loByte (encode i) :: rest) = _
  rw [decodeBytes, wordOfBytes_hiByte_loByte, h]

/-- Settles O2: a word and its instruction determine each other, and its two bytes are its word. -/
theorem decodeOfEncodeIsTheInstruction : Obligations.DecodeOfEncodeIsTheInstruction := by
  intro strict i hw
  have h : dispatch strict (encode i) = .ok i := dispatch_eq_ok_iff.2 ⟨rfl, hw⟩
  exact ⟨h, decodeBytes_encodeBytes h⟩

/-- Settles O3: the other direction of the same equivalence. -/
theorem encodeOfDecodeIsTheWord : Obligations.EncodeOfDecodeIsTheWord :=
  fun _ _ _ h => dispatch_eq_ok_iff.1 h

end Sys2Proof
end

section
/-! PROOFS. The illegal words (30_encoding R82). -/

namespace Sys2Proof

/-! ### The words no rule maps, family by family -/

theorem dispatchFamily0_eq_none_iff (d : Fields) :
    dispatchFamily0 d = none ↔ d.kk ∉ ([0xE0, 0xEE] : List Byte) := by
  unfold dispatchFamily0
  split <;> simp_all [← BitVec.toNat_inj]

theorem dispatchFamilyE_eq_none_iff (d : Fields) :
    dispatchFamilyE d = none ↔ d.kk ∉ ([0x9E, 0xA1] : List Byte) := by
  unfold dispatchFamilyE
  split <;> simp_all [← BitVec.toNat_inj]

theorem dispatchFamilyF_eq_none_iff (d : Fields) :
    dispatchFamilyF d = none ↔
      d.kk ∉ ([0x07, 0x0A, 0x15, 0x18, 0x1E, 0x29, 0x33, 0x55, 0x65] : List Byte) := by
  unfold dispatchFamilyF
  split <;> simp_all [← BitVec.toNat_inj]

theorem dispatchFamily8_eq_none_iff (d : Fields) :
    dispatchFamily8 d = none ↔ d.n ∈ ([0x8, 0x9, 0xA, 0xB, 0xC, 0xD, 0xF] : List Nibble) := by
  unfold dispatchFamily8
  split <;> simp_all [← BitVec.toNat_inj]
  omega -- the default arm: what is left of the key's sixteen values

/-- Only the four families with a second key leave words unmapped. -/
theorem dispatchFields_eq_none_iff (d : Fields) :
    dispatchFields d = none ↔
      (d.f = 0x0 ∧ dispatchFamily0 d = none) ∨ (d.f = 0x8 ∧ dispatchFamily8 d = none) ∨
      (d.f = 0xE ∧ dispatchFamilyE d = none) ∨ (d.f = 0xF ∧ dispatchFamilyF d = none) := by
  unfold dispatchFields
  split <;> simp_all [← BitVec.toNat_inj]
  omega -- the default arm: what is left of the key's sixteen values

/-! ### The lists of R82 -/

/-- The groups of 30_encoding R82 that no rule maps, for either value of DECODE_STRICT. -/
abbrev Fields.unmapped (d : Fields) : Prop :=
  (d.f = 0x0 ∧ d.kk ∉ ([0xE0, 0xEE] : List Byte)) ∨
  (d.f = 0x8 ∧ d.n ∈ ([0x8, 0x9, 0xA, 0xB, 0xC, 0xD, 0xF] : List Nibble)) ∨
  (d.f = 0xE ∧ d.kk ∉ ([0x9E, 0xA1] : List Byte)) ∨
  (d.f = 0xF ∧ d.kk ∉ ([0x07, 0x0A, 0x15, 0x18, 0x1E, 0x29, 0x33, 0x55, 0x65] : List Byte))

/-- The further groups of 30_encoding R82 under DECODE_STRICT = true: a don't-care bit that is not 0. -/
abbrev Fields.illFormed (d : Fields) : Prop :=
  (d.f = 0x0 ∧ d.kk ∈ ([0xE0, 0xEE] : List Byte) ∧ d.x ≠ 0) ∨ (d.f = 0x5 ∧ d.n ≠ 0) ∨ (d.f = 0x9 ∧ d.n ≠ 0)

theorem dispatchFields_eq_none_iff_unmapped (d : Fields) : dispatchFields d = none ↔ d.unmapped := by
  rw [dispatchFields_eq_none_iff, dispatchFamily0_eq_none_iff, dispatchFamily8_eq_none_iff,
    dispatchFamilyE_eq_none_iff, dispatchFamilyF_eq_none_iff, Fields.unmapped]

/-- DECODE_STRICT judges the nibble `x` of CLS and RET and the nibble `n` of 5xyN and 9xyN, and nothing else. -/
theorem wellFormed_eq_false_iff (strict : Bool) (i : Instr) :
    i.wellFormed strict = false ↔ strict = true ∧ (decodeFields (encode i)).illFormed := by
  unfold Fields.illFormed
  cases i
  case cls | ret =>
    simp [Instr.wellFormed, encode, decodeFields_packXKk_f, decodeFields_packXKk_x, decodeFields_packXKk_kk]
  case seReg | sneReg => simp [Instr.wellFormed, encode, decodeFields_packXYN_f, decodeFields_packXYN_n]
  all_goals
    simp [Instr.wellFormed, encode, decodeFields_packNnn_f, decodeFields_packXKk_f, decodeFields_packXYN_f]

/-- A word is illegal when no rule maps it, or under DECODE_STRICT = true when a don't-care bit is not 0. -/
theorem dispatch_eq_error_iff (strict : Bool) (w : Word) :
    dispatch strict w = .error (.illegalInstruction w) ↔
      (decodeFields w).unmapped ∨ (strict = true ∧ (decodeFields w).illFormed) := by
  rw [← dispatchFields_eq_none_iff_unmapped, dispatch]
  cases hd : dispatchFields (decodeFields w) with
  | none => simp
  | some i =>
    rw [← encode_of_dispatchFields hd, ← wellFormed_eq_false_iff]
    simp

/-- Settles O5: the groups of R82 are `Fields.unmapped`, then those of `Fields.illFormed` under DECODE_STRICT. -/
theorem illegalWordsAreTheListed : Obligations.IllegalWordsAreTheListed := by
  intro strict w
  rw [dispatch_eq_error_iff, Fields.unmapped, Fields.illFormed]
  simp only [or_assoc, and_or_left]

end Sys2Proof
end

section
/-! PROOFS. The dispatcher agrees with spec/opcode_table.json (30_encoding R74, R81). -/

namespace Sys2Proof

/-! ### The rows of the table -/

/-- The mask of a row for a value of DECODE_STRICT. -/
def OpcodeRow.maskOf (r : OpcodeRow) (strict : Bool) : Word := if strict then r.strictMask else r.mask

theorem OpcodeRow.matches_iff (r : OpcodeRow) (strict : Bool) (w : Word) :
    r.matches strict w = true ↔ w &&& r.maskOf strict = r.pattern := by
  simp [OpcodeRow.matches, OpcodeRow.maskOf]

/-- The rows of the table do not overlap: two different ones disagree on a bit both masks keep. -/
theorem opcodeTable_disjoint : ∀ strict, ∀ r ∈ opcodeTable, ∀ q ∈ opcodeTable,
    r.pattern &&& q.maskOf strict = q.pattern &&& r.maskOf strict → r = q := by decide +kernel

theorem OpcodeRow.eq_of_matches {r q : OpcodeRow} {strict : Bool} {w : Word} (hr : r ∈ opcodeTable)
    (hq : q ∈ opcodeTable) (hrw : r.matches strict w = true) (hqw : q.matches strict w = true) : r = q := by
  rw [OpcodeRow.matches_iff] at hrw hqw
  apply opcodeTable_disjoint strict r hr q hq
  rw [← hrw, ← hqw, BitVec.and_assoc, BitVec.and_assoc, BitVec.and_comm (r.maskOf strict)]

theorem Instr.row_le (i : Instr) : i.row - 1 < opcodeTable.length := by
  show i.row - 1 < 34
  cases i <;> simp [Instr.row]

/-- The row of the table an instruction belongs to. -/
def Instr.tableRow (i : Instr) : OpcodeRow := opcodeTable[i.row - 1]'i.row_le

theorem Instr.tableRow_mem (i : Instr) : i.tableRow ∈ opcodeTable := List.getElem_mem _

theorem Instr.row_tableRow (i : Instr) : i.tableRow.row = i.row := by cases i <;> rfl

/-! ### What the masks of the table keep -/

theorem packNnn_and_family (f : Nibble) (nnn : Addr) : packNnn f nnn &&& 0xF000 = packNnn f 0 := by
  show (f ++ nnn) &&& (BitVec.allOnes 4 ++ 0#12) = f ++ 0#12
  simp only [BitVec.and_append, BitVec.and_allOnes, BitVec.and_zero]

theorem packXKk_and_family (f x : Nibble) (kk : Byte) : packXKk f x kk &&& 0xF000 = packXKk f 0 0 := by
  show (f ++ x ++ kk) &&& (BitVec.allOnes 4 ++ 0#4 ++ 0#8) = f ++ 0#4 ++ 0#8
  simp only [BitVec.and_append, BitVec.and_allOnes, BitVec.and_zero]

theorem packXKk_and_lowByte (f x : Nibble) (kk : Byte) : packXKk f x kk &&& 0xF0FF = packXKk f 0 kk := by
  show (f ++ x ++ kk) &&& (BitVec.allOnes 4 ++ 0#4 ++ BitVec.allOnes 8) = f ++ 0#4 ++ kk
  simp only [BitVec.and_append, BitVec.and_allOnes, BitVec.and_zero]

theorem packXYN_and_family (f x y n : Nibble) : packXYN f x y n &&& 0xF000 = packXYN f 0 0 0 := by
  show (f ++ x ++ y ++ n) &&& (BitVec.allOnes 4 ++ 0#4 ++ 0#4 ++ 0#4) = f ++ 0#4 ++ 0#4 ++ 0#4
  simp only [BitVec.and_append, BitVec.and_allOnes, BitVec.and_zero]

theorem packXYN_and_lowNibble (f x y n : Nibble) : packXYN f x y n &&& 0xF00F = packXYN f 0 0 n := by
  show (f ++ x ++ y ++ n) &&& (BitVec.allOnes 4 ++ 0#4 ++ 0#4 ++ BitVec.allOnes 4) = f ++ 0#4 ++ 0#4 ++ n
  simp only [BitVec.and_append, BitVec.and_allOnes, BitVec.and_zero]

/-- The word of an instruction matches the row it belongs to. -/
theorem Instr.tableRow_matches {strict : Bool} {i : Instr} (hw : i.wellFormed strict = true) :
    i.tableRow.matches strict (encode i) = true := by
  rw [OpcodeRow.matches_iff]
  cases i
  case cls | ret =>
    cases strict
    · exact packXKk_and_lowByte ..
    · obtain rfl := eq_of_beq hw
      rfl
  case seReg | sneReg =>
    cases strict
    · exact packXYN_and_family ..
    · obtain rfl := eq_of_beq hw
      exact packXYN_and_lowNibble ..
  case jp | call | ldI | jpV0 => cases strict <;> exact packNnn_and_family ..
  case seByte | sneByte | ldByte | addByte | rnd => cases strict <;> exact packXKk_and_family ..
  case drw => cases strict <;> exact packXYN_and_family ..
  case ldReg | orReg | andReg | xorReg | addReg | sub | shr | subn | shl =>
    cases strict <;> exact packXYN_and_lowNibble ..
  all_goals cases strict <;> exact packXKk_and_lowByte ..

/-! ### Every word that matches a row decodes -/

theorem decodeFields_and_f (v w : Word) : (decodeFields (v &&& w)).f = (decodeFields v).f &&& (decodeFields w).f :=
  BitVec.extractLsb'_and ..

theorem decodeFields_and_x (v w : Word) : (decodeFields (v &&& w)).x = (decodeFields v).x &&& (decodeFields w).x :=
  BitVec.extractLsb'_and ..

theorem decodeFields_and_n (v w : Word) : (decodeFields (v &&& w)).n = (decodeFields v).n &&& (decodeFields w).n :=
  BitVec.extractLsb'_and ..

theorem decodeFields_and_kk (v w : Word) :
    (decodeFields (v &&& w)).kk = (decodeFields v).kk &&& (decodeFields w).kk :=
  BitVec.extractLsb'_and ..

/-- Two field tuples agree on what the dispatcher and the strict check read of them (30_encoding R75 to R80). -/
structure Fields.sameKey (strict : Bool) (d e : Fields) : Prop where
  f : d.f = e.f
  kk : e.f ∈ ([0x0, 0xE, 0xF] : List Nibble) → d.kk = e.kk
  n : e.f = 0x8 → d.n = e.n
  strictX : strict = true → e.f = 0x0 → d.x = e.x
  strictN : strict = true → e.f ∈ ([0x5, 0x9] : List Nibble) → d.n = e.n

theorem Fields.sameKey.illegal {strict : Bool} {d e : Fields} (h : d.sameKey strict e)
    (hd : d.unmapped ∨ (strict = true ∧ d.illFormed)) : e.unmapped ∨ (strict = true ∧ e.illFormed) := by
  obtain ⟨hf, hkk, hn, hx, hns⟩ := h
  unfold Fields.unmapped Fields.illFormed at *
  rw [hf] at hd
  rcases hd with (⟨h0, hk⟩ | ⟨h8, hk⟩ | ⟨hE, hk⟩ | ⟨hF, hk⟩) | ⟨hs, ⟨h0, hk, hx0⟩ | ⟨h5, hn0⟩ | ⟨h9, hn0⟩⟩
  · exact .inl (.inl ⟨h0, hkk (by simp [h0]) ▸ hk⟩)
  · exact .inl (.inr (.inl ⟨h8, hn h8 ▸ hk⟩))
  · exact .inl (.inr (.inr (.inl ⟨hE, hkk (by simp [hE]) ▸ hk⟩)))
  · exact .inl (.inr (.inr (.inr ⟨hF, hkk (by simp [hF]) ▸ hk⟩)))
  · exact .inr ⟨hs, .inl ⟨h0, hkk (by simp [h0]) ▸ hk, hx hs h0 ▸ hx0⟩⟩
  · exact .inr ⟨hs, .inr (.inl ⟨h5, hns hs (by simp [h5]) ▸ hn0⟩)⟩
  · exact .inr ⟨hs, .inr (.inr ⟨h9, hns hs (by simp [h9]) ▸ hn0⟩)⟩

/-- The masks of the table keep every field the dispatcher and the strict check read in a row's family. -/
theorem opcodeTable_masks_cover : ∀ strict, ∀ r ∈ opcodeTable,
    (decodeFields (r.maskOf strict)).f = BitVec.allOnes 4 ∧
    ((decodeFields r.pattern).f ∈ ([0x0, 0xE, 0xF] : List Nibble) →
      (decodeFields (r.maskOf strict)).kk = BitVec.allOnes 8) ∧
    ((decodeFields r.pattern).f = 0x8 → (decodeFields (r.maskOf strict)).n = BitVec.allOnes 4) ∧
    (strict = true → (decodeFields r.pattern).f = 0x0 → (decodeFields (r.maskOf strict)).x = BitVec.allOnes 4) ∧
    (strict = true → (decodeFields r.pattern).f ∈ ([0x5, 0x9] : List Nibble) →
      (decodeFields (r.maskOf strict)).n = BitVec.allOnes 4) := by decide +kernel

/-- A row's pattern is itself a legal word. -/
theorem opcodeTable_patterns_legal : ∀ strict, ∀ r ∈ opcodeTable,
    ¬ ((decodeFields r.pattern).unmapped ∨ (strict = true ∧ (decodeFields r.pattern).illFormed)) := by
  decide +kernel

theorem OpcodeRow.sameKey_of_matches {r : OpcodeRow} {strict : Bool} {w : Word} (hr : r ∈ opcodeTable)
    (h : r.matches strict w = true) : (decodeFields w).sameKey strict (decodeFields r.pattern) := by
  obtain ⟨hf, hkk, hn, hx, hns⟩ := opcodeTable_masks_cover strict r hr
  rw [OpcodeRow.matches_iff] at h
  constructor
  case f => rw [← h, decodeFields_and_f, hf, BitVec.and_allOnes]
  case kk => intro hp; rw [← h, decodeFields_and_kk, hkk hp, BitVec.and_allOnes]
  case n => intro hp; rw [← h, decodeFields_and_n, hn hp, BitVec.and_allOnes]
  case strictX => intro hs hp; rw [← h, decodeFields_and_x, hx hs hp, BitVec.and_allOnes]
  case strictN => intro hs hp; rw [← h, decodeFields_and_n, hns hs hp, BitVec.and_allOnes]

theorem dispatch_ok_of_ne_error {strict : Bool} {w : Word}
    (h : dispatch strict w ≠ .error (.illegalInstruction w)) : ∃ i, dispatch strict w = .ok i := by
  unfold dispatch at *
  split
  · simp_all
  · split <;> simp_all

theorem OpcodeRow.decodes_of_matches {r : OpcodeRow} {strict : Bool} {w : Word} (hr : r ∈ opcodeTable)
    (h : r.matches strict w = true) : ∃ i, dispatch strict w = .ok i := by
  apply dispatch_ok_of_ne_error
  rw [Ne, dispatch_eq_error_iff]
  exact fun hillegal => opcodeTable_patterns_legal strict r hr ((sameKey_of_matches hr h).illegal hillegal)

theorem opcodeTable_row_injective : ∀ r ∈ opcodeTable, ∀ q ∈ opcodeTable, r.row = q.row → r = q := by
  decide +kernel

/-- The row an instruction's number names is its row of the table. -/
theorem Instr.tableRow_eq_of_row {i : Instr} {r : OpcodeRow} (hr : r ∈ opcodeTable) (h : i.row = r.row) :
    i.tableRow = r :=
  opcodeTable_row_injective _ i.tableRow_mem r hr (i.row_tableRow.trans h)

/-- Settles O4: a word that matches a row decodes, and an instruction's word matches its own row and no other. -/
theorem dispatchAgreesWithOpcodeTable : Obligations.DispatchAgreesWithOpcodeTable := by
  intro strict w r hr
  have hown {i : Instr} (hd : dispatch strict w = .ok i) : i.tableRow.matches strict w = true := by
    obtain ⟨rfl, hw⟩ := dispatch_eq_ok_iff.1 hd
    exact Instr.tableRow_matches hw
  constructor
  · intro hmatch
    obtain ⟨i, hd⟩ := OpcodeRow.decodes_of_matches hr hmatch
    have hrow : i.tableRow = r := OpcodeRow.eq_of_matches i.tableRow_mem hr (hown hd) hmatch
    exact ⟨i, hd, hrow ▸ i.row_tableRow.symm⟩
  · rintro ⟨i, hd, hrow⟩
    exact Instr.tableRow_eq_of_row hr hrow ▸ hown hd

end Sys2Proof
end

section
/-! PROOFS. The cycle: every step completes, what a fetch reads, and the fixed words of the spec. -/

namespace Sys2Proof.Machine

/-! ### Completion -/

/-- Every handler ends in `raise`, `commit` or the wait of Fx0A, and each of them answers a next state. -/
theorem exec_answers (i : Instr) (s : State) : ∃ t, exec i s = .next t := by
  cases i
  case ret | call | skp | sknp | ldBVx | ldMemVx | ldVxMem => -- one check, then `commit`
    simp only [exec, execRet, execCall, execSkp, execSknp, execLdBVx, execLdMemVx, execLdVxMem]
    split
    · exact ⟨_, rfl⟩
    · exact State.commit_answers ..
  case drw =>
    simp only [exec, execDrw]
    split
    · exact ⟨_, rfl⟩
    · split
      · exact ⟨_, rfl⟩
      · exact State.commit_answers ..
  case ldVxK =>
    simp only [exec, execLdVxK]
    split
    · exact State.commit_answers ..
    · exact ⟨_, rfl⟩
  all_goals exact State.commit_answers ..

/-- A fetch outside memory is latched (30_encoding R85, R86). -/
theorem step_fetch_fault {s : State} (hlatch : s.faultLatch = none) (hf : s.fetch = none) :
    step s = .next (s.faulted s.fetchFault) := by
  simp [step, cycle, hlatch, hf, State.raise]

theorem step_answers {s : State} (hlatch : s.faultLatch = none) : ∃ t, step s = .next t := by
  cases hf : s.fetch with
  | none => exact ⟨_, step_fetch_fault hlatch hf⟩
  | some w =>
    cases hd : dispatch s.params.decodeStrict w with
    | error e => exact ⟨_, step_illegal hlatch hf hd⟩
    | ok i => rw [step_legal hlatch hf hd]; exact exec_answers i s

/-- Settles O11: a fetch fault and an illegal word are latched, and every handler ends in `raise`, `commit` or a wait. -/
theorem everyStepOfARunningMachineCompletes : Obligations.EveryStepOfARunningMachineCompletes :=
  ⟨fun _ => step_answers, exec_answers⟩

/-- Settles O16: an instruction keeps `pc`, or gives it a value that passes the check. -/
theorem everyNewPcPassesTheCheck : Obligations.EveryNewPcPassesTheCheck := by
  intro i s t h hne
  rcases (exec_effect h).pc_cases with hkept | hlegal
  · exact absurd hkept hne
  · exact (pcLegal_iff _ _).1 hlegal

/-! ### The cycle -/

/-- Settles O1: each word is dispatched by evaluation. -/
theorem knownWordsDecode : Obligations.KnownWordsDecode :=
  ⟨rfl, rfl, rfl, rfl, rfl, rfl, rfl, rfl, rfl, rfl, rfl⟩

/-- Settles O6: the last arm of the cycle is the instruction's meaning. -/
theorem stepRunsTheDecodedInstruction : Obligations.StepRunsTheDecodedInstruction :=
  fun _ _ _ => step_legal

theorem State.faulted_clear {s : State} (hlatch : s.faultLatch = none) (c : FaultCause) :
    { s.faulted c with faultLatch := none } = s := by
  rw [State.faulted, ← hlatch]

/-- Settles O7: the step takes the fault, whose record reads the word at `pc` again. -/
theorem illegalWordIsLatched : Obligations.IllegalWordIsLatched := by
  intro s w hlatch hf hd
  refine ⟨_, step_illegal hlatch hf hd, ?_, State.faulted_clear hlatch _⟩
  rw [State.faulted, State.record, hf]

theorem toNat_wordOfBytes (hi lo : Byte) : (wordOfBytes hi lo).toNat = 256 * hi.toNat + lo.toNat := by
  show (hi ++ lo).toNat = _
  rw [BitVec.toNat_append, ← Nat.shiftLeft_add_eq_or_of_lt lo.isLt, Nat.shiftLeft_eq, Nat.mul_comm]

/-- With PC_ALIGN_CHECK = true a legal `pc` has its second byte inside memory too. -/
theorem State.pcInv.le_of_aligned {s : State} (hpc : s.pcInv) (halign : s.params.pcAlignCheck = true) :
    s.pc.toNat ≤ 0xFFE := by
  obtain ⟨hle, heven⟩ := (pcLegal_iff _ _).1 hpc
  have := heven halign
  omega

/-- Settles O8: the two reads of a fetch, the parity of a legal `pc`, and the fetch fault at the last byte. -/
theorem fetchReadsTwoBytesBigEndian : Obligations.FetchReadsTwoBytesBigEndian := by
  refine ⟨fun s hle => ⟨_, State.fetch_inside s (by omega), toNat_wordOfBytes _ _⟩, fun s halign hpc => ?_,
    fun s hpc hlatch => ?_⟩
  · have hle : s.pc.toNat ≤ 0xFFE := State.pcInv.le_of_aligned hpc halign
    exact ⟨hle, by rw [State.fetch_inside s (by omega)]; rfl⟩
  · have hf : s.fetch = none := State.fetch_outside s (by rw [hpc]; decide)
    refine ⟨_, step_fetch_fault hlatch hf, ?_, State.faulted_clear hlatch _⟩
    rw [State.faulted, State.record, State.fetchFault, hf, hpc]
    rfl

/-! ### A halted machine -/

theorem step_halted {s : State} {rec : FaultRecord} (h : s.faultLatch = some rec) :
    step s = .fault (.halted rec) := by
  simp [step, cycle, h]

theorem stepResult_halted {s : State} {rec : FaultRecord} (h : s.faultLatch = some rec) :
    stepResult s = .fault rec := by
  rw [stepResult, ← step_eq_cycle, step_halted h]

theorem HostOp.apply_step_halted (r : Config.Rates) {s : State} {rec : FaultRecord}
    (h : s.faultLatch = some rec) : HostOp.step.apply r s = s := by
  simp [HostOp.apply, step_halted h]

/-- No operation but `load` clears the latch. -/
theorem HostOp.apply_halted (r : Config.Rates) {op : HostOp} {s : State} {rec : FaultRecord}
    (h : s.faultLatch = some rec) (hop : ∀ image, op ≠ .load image) : (op.apply r s).faultLatch = some rec := by
  cases op with
  | load image => exact absurd rfl (hop image)
  | step => rwa [HostOp.apply_step_halted r h]
  | tickFrame elapsed => simp [HostOp.apply, State.tickFrame, h]
  | setKey index pressed => exact h
  | getDisplay => exact h
  | fillAudio len => exact h

/-- Settles O9: the first arm of the cycle returns the record, and no operation but `load` clears it. -/
theorem haltedStepReturnsTheLatchedFault : Obligations.HaltedStepReturnsTheLatchedFault :=
  fun _ _ h => ⟨step_halted h, stepResult_halted h,
    fun r => ⟨HostOp.apply_step_halted r h, fun _ => HostOp.apply_halted r h⟩⟩

end Sys2Proof.Machine
end

section
/-! PROOFS. Control flow (40_control_flow): jumps, skips, and the call that a return undoes. -/

namespace Sys2Proof

/-- The `x` field of the layout f, nnn is the top nibble of `nnn` (30_encoding R71). -/
theorem decodeFields_packNnn_x (f : Nibble) (nnn : Addr) :
    (decodeFields (packNnn f nnn)).x = nnn.extractLsb' 8 4 := by
  apply BitVec.eq_of_getLsbD_eq; intro i hi
  have hlow : 8 + i < 12 := by omega
  simp [decodeFields, getLsbD_packNnn, hi, hlow]

end Sys2Proof

namespace Sys2Proof.Machine

/-! ### Instructions whose last act is the pc check -/

/-- The instruction jumps to the target and changes nothing else, or traps when the target fails its check. -/
abbrev State.jumpsOrTraps (s : State) (i : Instr) (target : Nat) : Prop :=
  (pcLegal s.params target = true → ∃ t, exec i s = .next t ∧ s.onlyRegs t [] target) ∧ s.pcTraps i target

theorem State.pcTraps_of_commit {s after : State} {i : Instr} {target : Nat}
    (he : exec i s = s.commit target after) : s.pcTraps i target :=
  fun h => he.trans (State.commit_illegal s after h)

theorem State.jumpsOrTraps_of_commit {s : State} {i : Instr} {target : Nat} (he : exec i s = s.commit target s) :
    s.jumpsOrTraps i target :=
  ⟨fun h => ⟨_, he.trans (State.commit_legal s s h), State.onlyRegs_setPc s h⟩, State.pcTraps_of_commit he⟩

/-! ### 1nnn JP and Bnnn JP V0 -/

theorem toNat_addrWord (nnn : Addr) : (addrWord nnn).toNat = nnn.toNat :=
  BitVec.toNat_setWidth_of_le (by decide)

/-- Twelve bits never leave memory: only the parity of an address is judged (30_encoding R88). -/
theorem pcLegal_addr_iff (p : Config.Params) (nnn : Addr) :
    pcLegal p nnn.toNat = true ↔ ¬ (p.pcAlignCheck = true ∧ nnn.toNat % 2 = 1) := by
  have := nnn.isLt
  rw [pcLegal_iff, not_and, Nat.mod_two_not_eq_one]
  exact and_iff_right (by omega)

theorem exec_jp (nnn : Addr) (s : State) : exec (.jp nnn) s = s.commit nnn.toNat s := by
  rw [← toNat_addrWord]; rfl

/-- Settles O22: the jump's target is a twelve-bit address, so the check is its parity. -/
theorem jpJumps : Obligations.JpJumps := by
  intro nnn s
  obtain ⟨hjump, htrap⟩ := State.jumpsOrTraps_of_commit (exec_jp nnn s)
  exact ⟨fun _ => dispatch_eq_ok_iff.2 ⟨rfl, rfl⟩, fun h => hjump ((pcLegal_addr_iff _ nnn).2 h),
    fun halign hodd => htrap (Bool.eq_false_iff.2 fun h => (pcLegal_addr_iff _ nnn).1 h ⟨halign, hodd⟩)⟩

theorem exec_jpV0 (nnn : Addr) (s : State) :
    exec (.jpV0 nnn) s = s.commit (nnn.toNat + (s.jumpOffset nnn).toNat) s := rfl

/-- The offset register for both values of JUMP_REG: `V[0]`, or the register the word's `x` field names. -/
theorem State.jumpOffset_eq {s : State} {nnn : Addr} {off : Byte} (h0 : s.params.jumpReg = .v0 → off = s.reg 0)
    (hx : s.params.jumpReg = .vx → off = s.reg (decodeFields (packNnn 0xB nnn)).x) : s.jumpOffset nnn = off := by
  unfold State.jumpOffset
  split
  · exact (h0 ‹_›).symm
  · rw [← decodeFields_packNnn_x 0xB]; exact (hx ‹_›).symm

/-- Settles O24: Bnnn is a jump to the integer sum. -/
theorem jpV0AddsTheOffsetRegister : Obligations.JpV0AddsTheOffsetRegister := by
  intro nnn s off
  refine ⟨fun _ => dispatch_eq_ok_iff.2 ⟨rfl, rfl⟩, fun h0 hx => State.jumpsOrTraps_of_commit ?_⟩
  rw [exec_jpV0, State.jumpOffset_eq h0 hx]

/-! ### The skips -/

/-- A conditional skip is a jump by 4 or 2. -/
theorem State.jumpsOrTraps_of_skipIf {s : State} {i : Instr} {cond : Bool} {p : Prop} [Decidable p]
    (he : exec i s = s.skipIf cond) (hp : cond = true ↔ p) (target : Nat)
    (ht : target = if p then s.pc.toNat + 4 else s.pc.toNat + 2) : s.jumpsOrTraps i target := by
  apply State.jumpsOrTraps_of_commit
  rw [he, ht, State.skipIf]
  simp only [hp]
  split <;> rfl

theorem exec_seByte (x : Nibble) (kk : Byte) (s : State) :
    exec (.seByte x kk) s = s.skipIf (s.reg x == kk) := rfl

theorem exec_sneByte (x : Nibble) (kk : Byte) (s : State) :
    exec (.sneByte x kk) s = s.skipIf (s.reg x != kk) := rfl

theorem exec_seReg (x y n : Nibble) (s : State) :
    exec (.seReg x y n) s = s.skipIf (s.reg x == s.reg y) := rfl

theorem exec_sneReg (x y n : Nibble) (s : State) :
    exec (.sneReg x y n) s = s.skipIf (s.reg x != s.reg y) := rfl

/-- Settles O25: 3xkk skips on equality and 4xkk on its negation. -/
theorem byteSkipsAdvanceByFourOrTwo : Obligations.ByteSkipsAdvanceByFourOrTwo :=
  fun x kk s => ⟨fun _ => ⟨dispatch_eq_ok_iff.2 ⟨rfl, rfl⟩, dispatch_eq_ok_iff.2 ⟨rfl, rfl⟩⟩,
    State.jumpsOrTraps_of_skipIf (exec_seByte x kk s) beq_iff_eq,
    State.jumpsOrTraps_of_skipIf (exec_sneByte x kk s) bne_iff_ne⟩

/-- An ignored nibble that must be 0 under DECODE_STRICT = true alone (30_encoding R75, R77). -/
theorem ignoredNibble_wellFormed {strict : Bool} {n : Nibble} (h : strict = true → n = 0) :
    (!strict || n == 0) = true := by
  cases strict with
  | false => rfl
  | true => exact beq_iff_eq.2 (h rfl)

/-- Settles O26: 5xy0 skips on equality and 9xy0 on its negation, and neither reads the low nibble. -/
theorem registerSkipsAdvanceByFourOrTwo : Obligations.RegisterSkipsAdvanceByFourOrTwo :=
  fun x y n s => ⟨fun _ hn => ⟨dispatch_eq_ok_iff.2 ⟨rfl, ignoredNibble_wellFormed hn⟩,
      dispatch_eq_ok_iff.2 ⟨rfl, ignoredNibble_wellFormed hn⟩⟩,
    State.jumpsOrTraps_of_skipIf (exec_seReg x y n s) beq_iff_eq,
    State.jumpsOrTraps_of_skipIf (exec_sneReg x y n s) bne_iff_ne⟩

/-! ### 00EE RET -/

theorem exec_ret_empty (x : Nibble) {s : State} (h : s.sp = 0) :
    exec (.ret x) s = .next (s.faulted (.stackUnderflow 0)) := by
  simp [exec, execRet, h, State.raise]

theorem exec_ret (x : Nibble) {s : State} {a : Word} (hsp : 0 < s.sp) (ha : s.stack[s.sp - 1]? = some a) :
    exec (.ret x) s = s.commit a.toNat s.pop := by
  have htop : s.top = a := by rw [State.top, ha]; rfl
  simp [exec, execRet, Nat.ne_of_gt hsp, htop]

/-- What CALL can push and the pc check refuses: the address after the last instruction (40_control_flow R100). -/
theorem State.returnsInv.eq_of_illegal {s : State} (h : s.returnsInv) {a : Word} (ha : a ∈ s.stack)
    (hl : pcLegal s.params a.toNat = false) : a = 0x1000 := by
  obtain ⟨hle, heven⟩ := h a ha
  have hgt : ¬ a.toNat ≤ 0xFFF := fun hin => Bool.eq_false_iff.1 hl ((pcLegal_iff _ _).2 ⟨hin, heven⟩)
  apply BitVec.eq_of_toNat_eq
  show a.toNat = 0x1000
  omega

/-- Settles O21: the pop is the handler's only write beside `pc`. -/
theorem retPopsTheReturnAddress : Obligations.RetPopsTheReturnAddress := by
  intro x s
  refine ⟨fun _ hx => dispatch_eq_ok_iff.2 ⟨rfl, ignoredNibble_wellFormed hx⟩, exec_ret_empty x, fun a hsp ha => ?_⟩
  have he : exec (.ret x) s = s.commit a.toNat s.pop := exec_ret x hsp ha
  exact ⟨fun h => ⟨_, he.trans (State.commit_legal s _ h), rfl, State.onlyRegs_setPc s h⟩,
    State.pcTraps_of_commit he, fun hinv => hinv.eq_of_illegal (List.mem_of_getElem? ha)⟩

/-! ### 2nnn CALL -/

theorem exec_call_full (nnn : Addr) {s : State} (h : s.sp = s.params.stackDepth) :
    exec (.call nnn) s = .next (s.faulted (.stackOverflow s.params.stackDepth)) := by
  simp [exec, execCall, h, State.raise]

theorem exec_call (nnn : Addr) {s : State} (h : s.sp < s.params.stackDepth) :
    exec (.call nnn) s = s.commit nnn.toNat (s.push (s.pc + 2)) := by
  simp [exec, execCall, Nat.not_le.2 h, toNat_addrWord]

theorem State.getElem?_push_sp (s : State) (w : Word) (h : s.sp < s.stack.length) :
    (s.push w).stack[s.sp]? = some w :=
  List.getElem?_set_self h

theorem State.getElem?_push_of_ne (s : State) (w : Word) {j : Nat} (h : j ≠ s.sp) :
    (s.push w).stack[j]? = s.stack[j]? :=
  List.getElem?_set_ne h.symm

/-- A call with room on the stack has a stored entry to write. -/
theorem State.stackInv.sp_lt_length {s : State} (h : s.stackInv) (hroom : s.sp < s.params.stackDepth) :
    s.sp < s.stack.length := by
  obtain ⟨-, hlen⟩ := h
  rwa [hlen]

/-- Settles O23: the push is the handler's only write beside `pc`. -/
theorem callPushesAndJumps : Obligations.CallPushesAndJumps := by
  intro nnn s
  refine ⟨fun _ => dispatch_eq_ok_iff.2 ⟨rfl, rfl⟩, exec_call_full nnn, fun hinv hroom => ?_⟩
  have he : exec (.call nnn) s = s.commit nnn.toNat (s.push (s.pc + 2)) := exec_call nnn hroom
  exact ⟨fun h => ⟨_, he.trans (State.commit_legal s _ h), rfl,
      State.getElem?_push_sp s _ (hinv.sp_lt_length hroom), fun _ => State.getElem?_push_of_ne s _,
      State.onlyRegs_setPc s h⟩,
    State.pcTraps_of_commit he⟩

/-! ### A call and its return -/

/-- The return reads the entry just pushed, and its check is the one on that entry. -/
theorem exec_ret_of_push (x : Nibble) (s : State) (w pc : Word) (h : s.sp < s.stack.length) :
    exec (.ret x) ((s.push w).setPc pc) = ((s.push w).setPc pc).commit w.toNat ((s.push w).setPc pc).pop :=
  exec_ret x (Nat.succ_pos _) (State.getElem?_push_sp s w h)

/-- Settles O46: the return pops the entry the call pushed, and its check is the one on `pc + 2`. -/
theorem callThenRetComesBack : Obligations.CallThenRetComesBack := by
  intro nnn x s hinv hroom hcall hret
  have hpc : (s.pc + 2).toNat = s.pc.toNat + 2 := by
    obtain ⟨hle, -⟩ := (pcLegal_iff _ _).1 hret
    exact State.toNat_pc_add_two (by omega)
  have hlen : s.sp < s.stack.length := hinv.sp_lt_length hroom
  have hpop := exec_ret_of_push x s (s.pc + 2) (BitVec.ofNat 16 nnn.toNat) hlen
  rw [hpc] at hpop
  exact ⟨_, _, (exec_call nnn hroom).trans (State.commit_legal s _ hcall),
    hpop.trans (State.commit_legal _ _ hret), toNat_of_pcLegal hret, rfl, State.getElem?_push_sp s _ hlen,
    fun _ => State.getElem?_push_of_ne s _, State.onlyRegs_setPc s hret⟩

end Sys2Proof.Machine
end

section
/-! PROOFS. Register arithmetic and logic (41_alu): one rule per kind of register write, and the arithmetic of each
result and flag. -/

namespace Sys2Proof.Machine

/-! ### What a handler that writes registers and falls through answers -/

/-- A handler that writes one register and falls through. -/
theorem State.onlyRegs_of_fallThrough {s : State} {i : Instr} {x : Nibble} {b : Byte}
    (he : exec i s = s.fallThrough (s.setReg x b)) (hpc : pcLegal s.params (s.pc.toNat + 2) = true) :
    ∃ t, exec i s = .next t ∧ t.reg x = b ∧ s.onlyRegs t [x] (s.pc.toNat + 2) :=
  ⟨_, he.trans (State.fallThrough_legal s _ hpc), State.reg_setReg_same s x b, State.onlyRegs_setReg s x b hpc⟩

/-- The frame of a handler that writes a register, then `VF`, and `pc`. -/
theorem State.onlyRegs_setReg_setReg (s : State) (x : Nibble) (b vf : Byte) {t : Nat}
    (h : pcLegal s.params t = true) :
    s.onlyRegs (((s.setReg x b).setReg 15 vf).setPc (BitVec.ofNat 16 t)) [x, 15] t := by
  refine State.onlyRegs_setRegs s ((s.setReg x b).setReg 15 vf).v [x, 15] h fun k hk => ?_
  have hx : k ≠ x := List.ne_of_not_mem_cons hk
  have hvf : k ≠ 15 := List.ne_of_not_mem_cons (List.not_mem_of_not_mem_cons hk)
  exact (State.reg_setReg_other _ vf hvf).trans (State.reg_setReg_other s b hx)

/-- A handler that writes a result, then the flag, and falls through (41_alu R120). -/
theorem State.flagResult_of_fallThrough {s : State} {i : Instr} {x : Nibble} {b : Byte} {f : Bool} {result : Nat}
    {flag : Prop} (he : exec i s = s.fallThrough (s.setWithFlag x b f))
    (hpc : pcLegal s.params (s.pc.toNat + 2) = true) (hresult : b.toNat = result) (hflag : f = true ↔ flag) :
    ∃ t, exec i s = .next t ∧ s.flagResult t x result flag := by
  have hvf : (s.setWithFlag x b f).reg 15 = flagByte f := State.reg_setReg_same _ 15 _
  refine ⟨_, he.trans (State.fallThrough_legal s _ hpc), ?_, ?_, ?_, State.onlyRegs_setReg_setReg s x b _ hpc⟩
  · intro hx
    rw [State.reg_setPc, State.reg_setWithFlag, if_neg hx, if_pos rfl, hresult]
  · intro hset
    rw [State.reg_setPc, hvf, hflag.2 hset]; rfl
  · intro hclear
    rw [State.reg_setPc, hvf, Bool.eq_false_iff.2 fun hf => hclear (hflag.1 hf)]; rfl

/-- A handler that writes a logic result and falls through, for both values of LOGIC_VF (41_alu section 3). -/
theorem State.logicResult_of_fallThrough {s : State} {i : Instr} {x : Nibble} {b : Byte}
    (he : exec i s = s.fallThrough (s.setLogic x b)) (hpc : pcLegal s.params (s.pc.toNat + 2) = true) :
    ∃ t, exec i s = .next t ∧ s.logicResult t x b := by
  refine ⟨_, he.trans (State.fallThrough_legal s _ hpc), fun hkeep => ?_, fun hreset => ?_⟩
  · rw [State.setLogic_keep s x b hkeep]
    exact ⟨State.reg_setReg_same s x b, State.onlyRegs_setReg s x b hpc⟩
  · rw [State.setLogic_reset s x b hreset]
    exact ⟨fun hx => (State.reg_setReg_other _ 0 hx).trans (State.reg_setReg_same s x b),
      State.reg_setReg_same _ 15 0, State.onlyRegs_setReg_setReg s x b 0 hpc⟩

/-! ### 6xkk LD, 7xkk ADD and 8xy0 LD -/

theorem exec_ldByte (x : Nibble) (kk : Byte) (s : State) :
    exec (.ldByte x kk) s = s.fallThrough (s.setReg x kk) := rfl

theorem exec_addByte (x : Nibble) (kk : Byte) (s : State) :
    exec (.addByte x kk) s = s.fallThrough (s.setReg x (s.reg x + kk)) := rfl

theorem exec_ldReg (x y : Nibble) (s : State) :
    exec (.ldReg x y) s = s.fallThrough (s.setReg x (s.reg y)) := rfl

/-- Settles O27: 6xkk is a one-register write of its immediate. -/
theorem ldByteLoadsTheImmediate : Obligations.LdByteLoadsTheImmediate :=
  fun x kk s => ⟨fun _ => dispatch_eq_ok_iff.2 ⟨rfl, rfl⟩, State.onlyRegs_of_fallThrough (exec_ldByte x kk s),
    State.pcTraps_of_fallThrough (exec_ldByte x kk s)⟩

/-- Settles O28: 7xkk is a one-register write of the byte sum, and `VF` is in the frame unless it is `V[x]`. -/
theorem addByteWrapsWithoutCarry : Obligations.AddByteWrapsWithoutCarry := by
  intro x kk s
  refine ⟨fun _ => dispatch_eq_ok_iff.2 ⟨rfl, rfl⟩, fun hpc => ?_, State.pcTraps_of_fallThrough (exec_addByte x kk s)⟩
  obtain ⟨t, hexec, hreg, hframe⟩ := State.onlyRegs_of_fallThrough (exec_addByte x kk s) hpc
  exact ⟨t, hexec, hreg ▸ BitVec.toNat_add (s.reg x) kk, hframe⟩

/-- Settles O29: 8xy0 is a one-register write of `V[y]`. -/
theorem ldRegCopies : Obligations.LdRegCopies :=
  fun x y s => ⟨fun _ => dispatch_eq_ok_iff.2 ⟨rfl, rfl⟩, State.onlyRegs_of_fallThrough (exec_ldReg x y s),
    State.pcTraps_of_fallThrough (exec_ldReg x y s)⟩

/-! ### 8xy1 OR, 8xy2 AND and 8xy3 XOR -/

theorem exec_orReg (x y : Nibble) (s : State) :
    exec (.orReg x y) s = s.fallThrough (s.setLogic x (s.reg x ||| s.reg y)) := rfl

theorem exec_andReg (x y : Nibble) (s : State) :
    exec (.andReg x y) s = s.fallThrough (s.setLogic x (s.reg x &&& s.reg y)) := rfl

theorem exec_xorReg (x y : Nibble) (s : State) :
    exec (.xorReg x y) s = s.fallThrough (s.setLogic x (s.reg x ^^^ s.reg y)) := rfl

/-- Settles O30: the three instructions write a logic result, which does with `VF` what LOGIC_VF says. -/
theorem logicCombinesTheRegisters : Obligations.LogicCombinesTheRegisters :=
  fun x y s => ⟨fun _ => ⟨dispatch_eq_ok_iff.2 ⟨rfl, rfl⟩, dispatch_eq_ok_iff.2 ⟨rfl, rfl⟩,
      dispatch_eq_ok_iff.2 ⟨rfl, rfl⟩⟩,
    fun hpc => ⟨State.logicResult_of_fallThrough (exec_orReg x y s) hpc,
      State.logicResult_of_fallThrough (exec_andReg x y s) hpc,
      State.logicResult_of_fallThrough (exec_xorReg x y s) hpc⟩,
    State.pcTraps_of_fallThrough (exec_orReg x y s), State.pcTraps_of_fallThrough (exec_andReg x y s),
    State.pcTraps_of_fallThrough (exec_xorReg x y s)⟩

/-! ### 8xy4 ADD -/

theorem exec_addReg (x y : Nibble) (s : State) :
    exec (.addReg x y) s = s.fallThrough (s.setWithFlag x (s.reg x + s.reg y) (carry (s.reg x) (s.reg y))) := rfl

theorem carry_iff (a b : Byte) : carry a b = true ↔ a.toNat + b.toNat > 255 := decide_eq_true_iff

/-- Settles O31: the carry is read off the integer sum of the two old values. -/
theorem addRegSetsTheCarry : Obligations.AddRegSetsTheCarry :=
  fun x y s => ⟨fun _ => dispatch_eq_ok_iff.2 ⟨rfl, rfl⟩,
    fun hpc => State.flagResult_of_fallThrough (exec_addReg x y s) hpc (BitVec.toNat_add _ _) (carry_iff _ _),
    State.pcTraps_of_fallThrough (exec_addReg x y s)⟩

/-! ### 8xy5 SUB and 8xy7 SUBN -/

theorem exec_sub (x y : Nibble) (s : State) :
    exec (.sub x y) s = s.fallThrough (s.setWithFlag x (s.reg x - s.reg y) (notBorrow (s.reg x) (s.reg y))) := rfl

theorem exec_subn (x y : Nibble) (s : State) :
    exec (.subn x y) s = s.fallThrough (s.setWithFlag x (s.reg y - s.reg x) (notBorrow (s.reg y) (s.reg x))) := rfl

/-- A byte difference is the integer difference modulo 256, which is never negative. -/
theorem toNat_byte_sub (a b : Byte) : (a - b).toNat = (((a.toNat : Int) - b.toNat) % 256).toNat := by
  have ha := a.isLt
  have hb := b.isLt
  rw [BitVec.toNat_sub]
  omega

theorem notBorrow_iff (a b : Byte) : notBorrow a b = true ↔ a.toNat ≥ b.toNat := decide_eq_true_iff

/-- Settles O32: 8xy7 is 8xy5 with its operands exchanged, so one rule for the difference and the flag serves both. -/
theorem subtractionsSetNotBorrow : Obligations.SubtractionsSetNotBorrow := by
  rintro x y s a b rfl rfl
  exact ⟨fun _ => ⟨dispatch_eq_ok_iff.2 ⟨rfl, rfl⟩, dispatch_eq_ok_iff.2 ⟨rfl, rfl⟩⟩,
    fun hpc => ⟨State.flagResult_of_fallThrough (exec_sub x y s) hpc (toNat_byte_sub _ _) (notBorrow_iff _ _),
      State.flagResult_of_fallThrough (exec_subn x y s) hpc (toNat_byte_sub _ _) (notBorrow_iff _ _)⟩,
    State.pcTraps_of_fallThrough (exec_sub x y s), State.pcTraps_of_fallThrough (exec_subn x y s)⟩

/-! ### 8xy6 SHR and 8xyE SHL -/

theorem exec_shr (x y : Nibble) (s : State) :
    exec (.shr x y) s =
      s.fallThrough (s.setWithFlag x (s.shiftSource x y >>> 1) (shiftedOutRight (s.shiftSource x y))) := rfl

theorem exec_shl (x y : Nibble) (s : State) :
    exec (.shl x y) s =
      s.fallThrough (s.setWithFlag x (s.shiftSource x y <<< 1) (shiftedOutLeft (s.shiftSource x y))) := rfl

/-- The source of a shift for both values of SHIFT_SRC. -/
theorem State.toNat_shiftSource {s : State} {x y : Nibble} {src : Nat}
    (hx : s.params.shiftSrc = .vx → src = (s.reg x).toNat) (hy : s.params.shiftSrc = .vy → src = (s.reg y).toNat) :
    (s.shiftSource x y).toNat = src := by
  unfold State.shiftSource
  split
  · exact (hx ‹_›).symm
  · exact (hy ‹_›).symm

theorem toNat_byte_shiftRight_one (b : Byte) : (b >>> 1).toNat = b.toNat / 2 := by
  rw [BitVec.toNat_ushiftRight, Nat.shiftRight_one]

theorem toNat_byte_shiftLeft_one (b : Byte) : (b <<< 1).toNat = 2 * b.toNat % 256 := by
  rw [BitVec.toNat_shiftLeft, Nat.shiftLeft_eq, Nat.pow_one, Nat.mul_comm]

theorem shiftedOutRight_iff (b : Byte) : shiftedOutRight b = true ↔ b.toNat % 2 = 1 := by
  rw [shiftedOutRight, BitVec.getLsbD, Nat.testBit_zero, decide_eq_true_iff]

/-- Bit 7 is the top bit of a byte, so dividing by 128 leaves it alone. -/
theorem shiftedOutLeft_iff (b : Byte) : shiftedOutLeft b = true ↔ b.toNat / 128 = 1 := by
  have hb := b.isLt
  rw [shiftedOutLeft, BitVec.getLsbD, Nat.testBit_eq_decide_div_mod_eq, decide_eq_true_iff]
  omega

/-- Settles O33: both shifts read SHIFT_SRC's register once, for the result and for the flag. -/
theorem shiftsMoveOneBitIntoTheFlag : Obligations.ShiftsMoveOneBitIntoTheFlag := by
  intro x y s src hx hy
  obtain rfl : (s.shiftSource x y).toNat = src := State.toNat_shiftSource hx hy
  exact ⟨fun _ => ⟨dispatch_eq_ok_iff.2 ⟨rfl, rfl⟩, dispatch_eq_ok_iff.2 ⟨rfl, rfl⟩⟩,
    fun hpc => ⟨State.flagResult_of_fallThrough (exec_shr x y s) hpc (toNat_byte_shiftRight_one _)
        (shiftedOutRight_iff _),
      State.flagResult_of_fallThrough (exec_shl x y s) hpc (toNat_byte_shiftLeft_one _) (shiftedOutLeft_iff _)⟩,
    State.pcTraps_of_fallThrough (exec_shr x y s), State.pcTraps_of_fallThrough (exec_shl x y s)⟩

end Sys2Proof.Machine
end

section
/-! PROOFS. The index register and the memory transfers (42_index_memory): one rule for the instructions that write `I`
alone, and one for each transfer. -/

namespace Sys2Proof.Machine

/-! ### Addresses and bytes that fit their width -/

/-- A number that fits its width is not truncated. -/
theorem toNat_ofNat_of_lt {w n : Nat} (h : n < 2 ^ w) : (BitVec.ofNat w n).toNat = n := by
  rw [BitVec.toNat_ofNat, Nat.mod_eq_of_lt h]

/-- The advanced index is exact: it is at most 0x1000 (42_index_memory R144, R145). -/
theorem State.toNat_advancedIndex {s : State} {x : Nibble} (hin : s.i.toNat + x.toNat ≤ 0xFFF) :
    (BitVec.ofNat 16 (s.i.toNat + x.toNat + 1) : Word).toNat = s.i.toNat + x.toNat + 1 :=
  toNat_ofNat_of_lt (by omega)

/-! ### Fx55 LD [I], Vx -/

/-- A byte stored by Fx55 reads as its register. -/
theorem State.get_setBytes_regsUpTo_inside {s : State} {x j : Nibble} (hin : s.i.toNat + x.toNat ≤ 0xFFF)
    (hj : j.toNat ≤ x.toNat) : (s.mem.setBytes s.i.toNat (s.regsUpTo x)).get (s.i.toNat + j.toNat) = s.reg j :=
  Memory.get_setBytes_inside _ _ _ _ _ (State.getElem_regsUpTo s hj) (by omega)

/-- A byte outside the range Fx55 stores to reads as before. -/
theorem State.get_setBytes_regsUpTo_outside (s : State) (x : Nibble) {b : Nat}
    (hb : b < s.i.toNat ∨ s.i.toNat + (x.toNat + 1) ≤ b) :
    (s.mem.setBytes s.i.toNat (s.regsUpTo x)).get b = s.mem.get b :=
  Memory.get_setBytes_outside _ _ _ _ (by rwa [State.length_regsUpTo])

/-- Settles O39: both checks precede the writes, and the handler writes memory, `I` and `pc`. -/
theorem storeRegistersAdvancesIndex : Obligations.StoreRegistersAdvancesIndex :=
  fun x s => ⟨fun strict => dispatch_ldMemVx strict x, exec_ldMemVx_outside,
    fun hin => ⟨fun hpc => ⟨_, (exec_ldMemVx_inside hin).trans (State.fallThrough_legal s _ hpc),
        fun _ => State.get_setBytes_regsUpTo_inside hin, fun _ => State.get_setBytes_regsUpTo_outside s x,
        State.toNat_advancedIndex hin, State.onlyRegs_setPc s hpc⟩,
      State.pcTraps_of_fallThrough (exec_ldMemVx_inside hin)⟩⟩

/-! ### Fx65 LD Vx, [I] -/

theorem exec_ldVxMem_inside {x : Nibble} {s : State} (h : s.i.toNat + x.toNat ≤ 0xFFF) :
    exec (.ldVxMem x) s = s.fallThrough ((s.setRegs (s.loadedRegs x)).setI
      (BitVec.ofNat 16 (s.i.toNat + x.toNat + 1))) := by
  simp only [exec, execLdVxMem, State.accessFault_inside s _ h]

theorem exec_ldVxMem_outside {x : Nibble} {s : State} (h : 0xFFF < s.i.toNat + x.toNat) :
    exec (.ldVxMem x) s = s.raise (.memoryOutOfBounds (max s.i.toNat 0x1000)) := by
  simp only [exec, execLdVxMem, State.accessFault_outside s _ h]

/-- The frame of a handler that writes registers, `I` and `pc`, once the old registers and `I` are put back. -/
theorem State.onlyRegs_setRegs_setI (s : State) (v : Vector Byte 16) (w : Word) {t : Nat}
    (h : pcLegal s.params t = true) :
    s.onlyRegs (((((s.setRegs v).setI w).setPc (BitVec.ofNat 16 t)).setRegs s.v).setI s.i) [] t :=
  State.onlyRegs_setPc s h

/-- A load inside memory with a legal next `pc` completes. -/
theorem exec_ldVxMem_completes {x : Nibble} {s : State} (hin : s.i.toNat + x.toNat ≤ 0xFFF)
    (hpc : pcLegal s.params (s.pc.toNat + 2) = true) :
    ∃ t, exec (.ldVxMem x) s = .next t ∧
      (∀ j : Nibble, j.toNat ≤ x.toNat → t.reg j = s.mem.get (s.i.toNat + j.toNat)) ∧
      (∀ j : Nibble, x.toNat < j.toNat → t.reg j = s.reg j) ∧
      t.i.toNat = s.i.toNat + x.toNat + 1 ∧
      s.onlyRegs ((t.setRegs s.v).setI s.i) [] (s.pc.toNat + 2) := by
  refine ⟨_, (exec_ldVxMem_inside hin).trans (State.fallThrough_legal s _ hpc), fun j hj => ?_, fun j hj => ?_,
    State.toNat_advancedIndex hin, State.onlyRegs_setRegs_setI s _ _ hpc⟩
  · rw [State.reg_setPc, State.reg_setI, State.reg_setRegs_loadedRegs, if_pos hj]
  · rw [State.reg_setPc, State.reg_setI, State.reg_setRegs_loadedRegs, if_neg (Nat.not_le.2 hj)]

/-- Settles O40: both checks precede the writes, and the handler writes registers, `I` and `pc`. -/
theorem loadRegistersAdvancesIndex : Obligations.LoadRegistersAdvancesIndex :=
  fun _ _ => ⟨fun _ => dispatch_eq_ok_iff.2 ⟨rfl, rfl⟩, exec_ldVxMem_outside,
    fun hin => ⟨exec_ldVxMem_completes hin, State.pcTraps_of_fallThrough (exec_ldVxMem_inside hin)⟩⟩

/-! ### A store and then a load -/

/-- A store that raised no fault has advanced `I`. -/
theorem exec_ldMemVx_index {x : Nibble} {s t : State} (h : exec (.ldMemVx x) s = .next t)
    (ht : t.faultLatch = none) : t.i.toNat = s.i.toNat + x.toNat + 1 := by
  obtain ⟨hin, -⟩ := exec_ldMemVx_completes h ht
  rw [State.fallThrough_completes ((exec_ldMemVx_inside hin).symm.trans h) ht]
  exact State.toNat_advancedIndex hin

/-- Settles O47: the load at the first `I` reads the stored bytes, and the load at the advanced `I` reads only bytes
above them. -/
theorem storeThenLoadFollowsConflictSeven : Obligations.StoreThenLoadFollowsConflictSeven := by
  intro x s t hin _ hstore ht
  obtain ⟨-, hmem⟩ := exec_ldMemVx_completes hstore ht
  refine ⟨fun r hr hi hpc => ?restored, fun habove hpc => ?backToBack⟩
  case restored =>
    obtain ⟨u, hload, hregs, -, hindex, -⟩ := exec_ldVxMem_completes (s := r) (x := x) (by rwa [hi]) hpc
    rw [hr, hmem, hi] at hregs
    exact ⟨u, hload, fun j hj => (hregs j hj).trans (State.get_setBytes_regsUpTo_inside hin hj), hi ▸ hindex⟩
  case backToBack =>
    have hi : t.i.toNat = s.i.toNat + x.toNat + 1 := exec_ldMemVx_index hstore ht
    obtain ⟨u, hload, hregs, -, hindex, -⟩ := exec_ldVxMem_completes (s := t) (x := x) (by omega) hpc
    rw [hmem, hi] at hregs
    exact ⟨u, hload, fun j hj => (hregs j hj).trans (State.get_setBytes_regsUpTo_outside s x (by omega)), by omega⟩

/-! ### Fx33 LD B, Vx -/

/-- Each of the three stored bytes is a decimal digit, so none is truncated. -/
theorem get_setBytes_bcdDigits (m : Memory) {a : Nat} (v : Byte) (hin : a + 2 ≤ 0xFFF) :
    ((m.setBytes a (bcdDigits v)).get a).toNat = v.toNat / 100 ∧
    ((m.setBytes a (bcdDigits v)).get (a + 1)).toNat = v.toNat / 10 % 10 ∧
    ((m.setBytes a (bcdDigits v)).get (a + 2)).toNat = v.toNat % 10 := by
  have hv := v.isLt
  have hundreds := Memory.get_setBytes_inside m a 0 (bcdDigits v) _ rfl (by omega)
  have htens := Memory.get_setBytes_inside m a 1 (bcdDigits v) _ rfl (by omega)
  have hunits := Memory.get_setBytes_inside m a 2 (bcdDigits v) _ rfl (by omega)
  rw [Nat.add_zero] at hundreds
  rw [hundreds, htens, hunits]
  exact ⟨toNat_ofNat_of_lt (by omega), toNat_ofNat_of_lt (by omega), toNat_ofNat_of_lt (by omega)⟩

/-- Settles O38: both checks precede the writes, and the handler writes memory and `pc`. -/
theorem bcdStoresThreeDigits : Obligations.BcdStoresThreeDigits := by
  refine fun x s => ⟨fun strict => dispatch_ldBVx strict x, exec_ldBVx_outside, fun hin => ⟨fun hpc => ?_,
    State.pcTraps_of_fallThrough (exec_ldBVx_inside hin)⟩⟩
  obtain ⟨hundreds, htens, hunits⟩ := get_setBytes_bcdDigits s.mem (s.reg x) hin
  exact ⟨_, (exec_ldBVx_inside hin).trans (State.fallThrough_legal s _ hpc), hundreds, htens, hunits,
    fun b hb => Memory.get_setBytes_outside s.mem s.i.toNat b (bcdDigits (s.reg x)) hb, State.onlyRegs_setPc s hpc⟩

/-! ### Annn LD I, Fx1E ADD I and Fx29 LD F: the instructions that write `I` alone -/

/-- A handler that writes `I` and falls through. -/
theorem State.setI_of_fallThrough {s : State} {i : Instr} {w : Word} {n : Nat}
    (he : exec i s = s.fallThrough (s.setI w)) (hw : w.toNat = n)
    (hpc : pcLegal s.params (s.pc.toNat + 2) = true) :
    ∃ t, exec i s = .next t ∧ t.i.toNat = n ∧ s.onlyRegs (t.setI s.i) [] (s.pc.toNat + 2) :=
  ⟨_, he.trans (State.fallThrough_legal s _ hpc), hw, State.onlyRegs_setPc s hpc⟩

theorem exec_ldI (nnn : Addr) (s : State) : exec (.ldI nnn) s = s.fallThrough (s.setI (addrWord nnn)) := rfl

theorem exec_addIVx (x : Nibble) (s : State) :
    exec (.addIVx x) s = s.fallThrough (s.setI (s.i + (s.reg x).setWidth 16)) := rfl

theorem exec_ldFVx (x : Nibble) (s : State) :
    exec (.ldFVx x) s = s.fallThrough (s.setI (BitVec.ofNat 16 (5 * fontDigitOf s.params (s.reg x)))) := rfl

/-- Settles O35: Annn is an `I` write of its address. -/
theorem ldILoadsTheAddress : Obligations.LdILoadsTheAddress :=
  fun nnn s => ⟨fun _ => dispatch_eq_ok_iff.2 ⟨rfl, rfl⟩,
    State.setI_of_fallThrough (exec_ldI nnn s) (toNat_addrWord nnn), State.pcTraps_of_fallThrough (exec_ldI nnn s)⟩

/-- A byte added to a word wraps at 2^16 (42_index_memory R141). -/
theorem toNat_add_byte (w : Word) (b : Byte) : (w + b.setWidth 16).toNat = (w.toNat + b.toNat) % 65536 := by
  rw [BitVec.toNat_add, BitVec.toNat_setWidth_of_le (by decide)]

/-- Settles O36: Fx1E is an `I` write of the wrapped sum, so every register, `VF` too, is in the frame. -/
theorem addIWrapsAtSixteenBits : Obligations.AddIWrapsAtSixteenBits :=
  fun x s => ⟨fun _ => dispatch_eq_ok_iff.2 ⟨rfl, rfl⟩,
    State.setI_of_fallThrough (exec_addIVx x s) (toNat_add_byte s.i (s.reg x)),
    State.pcTraps_of_fallThrough (exec_addIVx x s)⟩

/-- The digit for both values of FONT_DIGIT. -/
theorem fontDigitOf_eq {p : Config.Params} {v : Byte} {d : Nat} (hlow : p.fontDigit = .lowNibble → d = v.toNat % 16)
    (hfull : p.fontDigit = .full → d = v.toNat) : fontDigitOf p v = d := by
  unfold fontDigitOf
  split
  · exact (hlow ‹_›).symm
  · exact (hfull ‹_›).symm

theorem fontDigitOf_le (p : Config.Params) (v : Byte) : fontDigitOf p v ≤ v.toNat := by
  unfold fontDigitOf
  split
  · exact Nat.mod_le _ _
  · exact Nat.le_refl _

/-- The glyph's address is exact: a digit is at most 255 (42_index_memory R142). -/
theorem toNat_glyphAddress (p : Config.Params) (v : Byte) :
    (BitVec.ofNat 16 (5 * fontDigitOf p v) : Word).toNat = 5 * fontDigitOf p v := by
  have hdigit := fontDigitOf_le p v
  have hv := v.isLt
  exact toNat_ofNat_of_lt (by omega)

/-- Settles O37: Fx29 is an `I` write of five times the digit FONT_DIGIT chooses. -/
theorem ldFPointsAtTheGlyph : Obligations.LdFPointsAtTheGlyph := by
  intro x s d hlow hfull
  obtain rfl : fontDigitOf s.params (s.reg x) = d := fontDigitOf_eq hlow hfull
  exact ⟨fun _ => dispatch_eq_ok_iff.2 ⟨rfl, rfl⟩,
    State.setI_of_fallThrough (exec_ldFVx x s) (toNat_glyphAddress _ _),
    State.pcTraps_of_fallThrough (exec_ldFVx x s)⟩

end Sys2Proof.Machine
end

section
/-! PROOFS. Timers and keys (43_timers_keys): the timer transfers, the key skips, and the wait for a key. -/

namespace Sys2Proof.Machine

/-! ### Fx07, Fx15 and Fx18: the timer transfers -/

theorem exec_ldVxDt (x : Nibble) (s : State) : exec (.ldVxDt x) s = s.fallThrough (s.setReg x s.dt) := rfl

theorem exec_ldDtVx (x : Nibble) (s : State) : exec (.ldDtVx x) s = s.fallThrough (s.setDt (s.reg x)) := rfl

theorem exec_ldStVx (x : Nibble) (s : State) : exec (.ldStVx x) s = s.fallThrough (s.setSt (s.reg x)) := rfl

/-- Settles O41: Fx07 is a one-register write, and Fx15 and Fx18 are writes of one timer alone, so the audio queue is in
their frame. -/
theorem timerTransfersCopyTheByte : Obligations.TimerTransfersCopyTheByte := by
  refine fun x s => ⟨fun _ => ⟨dispatch_eq_ok_iff.2 ⟨rfl, rfl⟩, dispatch_eq_ok_iff.2 ⟨rfl, rfl⟩,
    dispatch_eq_ok_iff.2 ⟨rfl, rfl⟩⟩, fun hpc => ⟨?readDt, ?writeDt, ?writeSt⟩,
    State.pcTraps_of_fallThrough (exec_ldVxDt x s), State.pcTraps_of_fallThrough (exec_ldDtVx x s),
    State.pcTraps_of_fallThrough (exec_ldStVx x s)⟩
  case readDt => exact State.onlyRegs_of_fallThrough (exec_ldVxDt x s) hpc
  case writeDt =>
    exact ⟨_, (exec_ldDtVx x s).trans (State.fallThrough_legal s _ hpc), rfl, State.onlyRegs_setPc s hpc⟩
  case writeSt =>
    exact ⟨_, (exec_ldStVx x s).trans (State.fallThrough_legal s _ hpc), rfl, State.onlyRegs_setPc s hpc⟩

/-! ### Ex9E SKP and ExA1 SKNP -/

/-- A byte names no key exactly when it is above 15 and KEY_OOR = fault (43_timers_keys section 2). -/
theorem keyIndex_eq_none_iff {p : Config.Params} {v : Byte} :
    keyIndex p v = none ↔ p.keyOor = .fault ∧ v.toNat > 15 := by
  unfold keyIndex
  by_cases hv : v.toNat ≤ 15
  · simp [hv]
  · cases hp : p.keyOor <;> simp [hv, Nat.lt_of_not_le hv]

/-- The key a byte names: its own number, or its low nibble under KEY_OOR = low_nibble. -/
theorem keyIndex_eq_some_iff {p : Config.Params} {v : Byte} {k : Nat} :
    keyIndex p v = some k ↔
      (v.toNat ≤ 15 ∧ k = v.toNat) ∨ (p.keyOor = .lowNibble ∧ v.toNat > 15 ∧ k = v.toNat % 16) := by
  unfold keyIndex
  by_cases hv : v.toNat ≤ 15
  · simp [hv, eq_comm]
  · cases hp : p.keyOor <;> simp [hv, Nat.lt_of_not_le hv, eq_comm]

theorem exec_skp_noKey {x : Nibble} {s : State} (h : keyIndex s.params (s.reg x) = none) :
    exec (.skp x) s = s.raise (.keyIndexOutOfRange (s.reg x)) := by
  simp only [exec, execSkp, h]

theorem exec_sknp_noKey {x : Nibble} {s : State} (h : keyIndex s.params (s.reg x) = none) :
    exec (.sknp x) s = s.raise (.keyIndexOutOfRange (s.reg x)) := by
  simp only [exec, execSknp, h]

theorem exec_skp_key {x : Nibble} {s : State} {k : Nat} (h : keyIndex s.params (s.reg x) = some k) :
    exec (.skp x) s = s.skipIf (s.key k) := by
  simp only [exec, execSkp, h]

theorem exec_sknp_key {x : Nibble} {s : State} {k : Nat} (h : keyIndex s.params (s.reg x) = some k) :
    exec (.sknp x) s = s.skipIf (!s.key k) := by
  simp only [exec, execSknp, h]

/-- Settles O42: where the byte names a key, Ex9E is a skip on its level and ExA1 a skip on the negation. -/
theorem keySkipsTestTheKeyLevel : Obligations.KeySkipsTestTheKeyLevel := by
  refine fun x s => ⟨fun _ => ⟨dispatch_eq_ok_iff.2 ⟨rfl, rfl⟩, dispatch_eq_ok_iff.2 ⟨rfl, rfl⟩⟩,
    fun hoor hv => ?noKey, fun k target other hk htarget hother => ?key⟩
  case noKey =>
    have hnone : keyIndex s.params (s.reg x) = none := keyIndex_eq_none_iff.2 ⟨hoor, hv⟩
    exact ⟨exec_skp_noKey hnone, exec_sknp_noKey hnone⟩
  case key =>
    have hsome : keyIndex s.params (s.reg x) = some k := keyIndex_eq_some_iff.2 hk
    obtain ⟨hskip, htrap⟩ := State.jumpsOrTraps_of_skipIf (exec_skp_key hsome) Iff.rfl target htarget
    obtain ⟨hskipNot, htrapNot⟩ := State.jumpsOrTraps_of_skipIf (exec_sknp_key hsome) (Bool.not_eq_true' _).to_iff
      other (hother.trans (by cases s.key k <;> rfl))
    exact ⟨hskip, htrap, hskipNot, htrapNot⟩

/-! ### Fx0A LD Vx, K -/

theorem exec_ldVxK_pressed {s : State} {k : Nat} (x : Nibble) (h : s.lowestKey = some k) :
    exec (.ldVxK x) s = s.fallThrough ((s.setWait false s.waitReg).setReg x (BitVec.ofNat 8 k)) := by
  simp only [exec, execLdVxK, h]

theorem exec_ldVxK_waits {s : State} (x : Nibble) (h : s.lowestKey = none) :
    exec (.ldVxK x) s = .next (s.setWait true x) := by
  simp only [exec, execLdVxK, h]

@[simp] theorem State.lowestKey_setWait (s : State) (w : Bool) (x : Nibble) :
    (s.setWait w x).lowestKey = s.lowestKey := rfl

/-- A machine that already waits stays as it is (43_timers_keys R165: the step is idempotent). -/
theorem exec_ldVxK_setWait {s : State} (x : Nibble) (h : s.lowestKey = none) :
    exec (.ldVxK x) (s.setWait true x) = .next (s.setWait true x) :=
  exec_ldVxK_waits x ((State.lowestKey_setWait s true x).trans h)

/-- The pressed branch with a legal next `pc`. -/
theorem exec_ldVxK_latches {s : State} {k : Nat} (x : Nibble) (h : s.lowestKey = some k)
    (hpc : pcLegal s.params (s.pc.toNat + 2) = true) :
    ∃ t, exec (.ldVxK x) s = .next t ∧ (t.reg x).toNat = k ∧ t.waiting = false ∧
      s.onlyRegs (t.setWait s.waiting t.waitReg) [x] (s.pc.toNat + 2) := by
  obtain ⟨hk, -, -⟩ := (State.lowestKey_eq_some s k).1 h
  refine ⟨_, (exec_ldVxK_pressed x h).trans (State.fallThrough_legal s _ hpc), ?_, rfl,
    State.onlyRegs_setReg s x _ hpc⟩
  rw [State.reg_setPc, State.reg_setReg_same, toNat_ofNat_of_lt (by omega)]

/-- The wait changes `W` and `WX` alone: `pc` stays, with no check. -/
theorem State.onlyRegs_setWait (s : State) (w : Bool) (x : Nibble) :
    s.onlyRegs ((s.setWait w x).setWait s.waiting s.waitReg) [] s.pc.toNat :=
  ⟨rfl, fun _ _ => rfl, rfl, fun _ => rfl,
    ⟨rfl, rfl, rfl, rfl, rfl, rfl, rfl, rfl, rfl, rfl, rfl, rfl, rfl, rfl⟩⟩

/-- Settles O43: the handler branches on the lowest pressed key, which the wait does not change. -/
theorem waitForKeyLatchesTheLowest : Obligations.WaitForKeyLatchesTheLowest := by
  refine fun x s => ⟨fun _ => dispatch_eq_ldVxK.2 rfl, fun k hk hpressed hlower => ?pressed, fun hnone => ?waits⟩
  case pressed =>
    have hlowest : s.lowestKey = some k := (State.lowestKey_eq_some s k).2 ⟨hk, hpressed, hlower⟩
    exact ⟨exec_ldVxK_latches x hlowest, State.pcTraps_of_fallThrough (exec_ldVxK_pressed x hlowest)⟩
  case waits =>
    have hlowest : s.lowestKey = none := (State.lowestKey_eq_none s).2 hnone
    exact ⟨_, exec_ldVxK_waits x hlowest, rfl, rfl, State.onlyRegs_setWait s true x, exec_ldVxK_setWait x hlowest⟩

/-! ### The spin of Fx0A -/

/-- A machine whose step changes nothing is left as it is by any number of steps. -/
theorem run_of_step_self {s : State} (h : step s = .next s) (k : Nat) :
    Host.Core.run Sys2Proof.core k s = .next s := by
  induction k with
  | zero => rfl
  | succ k ih => rw [run_succ k h, ih]

/-- A step at an Fx0A is its handler. -/
theorem step_ldVxK {s : State} {x : Nibble} (hlatch : s.faultLatch = none)
    (hf : s.fetch = some (packXKk 0xF x 0x0A)) : step s = exec (.ldVxK x) s :=
  step_legal hlatch hf (dispatch_eq_ldVxK.2 rfl)

/-- A key pressed where none was is the lowest pressed key. -/
theorem State.lowestKey_setKey_of_none {s : State} (h : s.lowestKey = none) {key : Nat} (hkey : key < 16) :
    (s.setKey key true).lowestKey = some key := by
  rw [State.lowestKey_eq_none] at h
  refine (State.lowestKey_eq_some _ key).2 ⟨hkey, ?_, fun j hj => ?_⟩
  · rw [State.key_setKey, if_pos ⟨rfl, hkey⟩]
  · rw [State.key_setKey, if_neg (fun hne => by omega), h j (by omega)]

/-- Settles O49: the first step waits, each later one changes nothing, and neither the wait nor the key event moves `pc`
off the Fx0A. -/
theorem waitForKeySpinsUntilAKey : Obligations.WaitForKeySpinsUntilAKey := by
  intro x s k hlatch hf hnone
  have hlowest : s.lowestKey = none := (State.lowestKey_eq_none s).2 hnone
  have hfirst : step s = .next (s.setWait true x) := (step_ldVxK hlatch hf).trans (exec_ldVxK_waits x hlowest)
  have hlater : step (s.setWait true x) = .next (s.setWait true x) :=
    (step_ldVxK (s := s.setWait true x) hlatch hf).trans (exec_ldVxK_setWait x hlowest)
  refine ⟨(run_succ k hfirst).trans (run_of_step_self hlater k), fun key hkey hpc => ?_⟩
  have hpressed : ((s.setWait true x).setKey key true).lowestKey = some key :=
    State.lowestKey_setKey_of_none ((State.lowestKey_setWait s true x).trans hlowest) hkey
  obtain ⟨u, hexec, hreg, hwaiting, hframe⟩ := exec_ldVxK_latches x hpressed hpc
  exact ⟨u, (step_ldVxK (s := (s.setWait true x).setKey key true) hlatch hf).trans hexec, hreg, hwaiting, hframe.pc⟩

end Sys2Proof.Machine
end

section
/-! PROOFS. The display instructions (44_display): the clear, one draw told by its set bits, and two draws of one
sprite. -/

namespace Sys2Proof.Machine

/-! ### 00E0 CLS -/

theorem exec_cls (x : Nibble) (s : State) : exec (.cls x) s = s.fallThrough (s.setDisp Display.clear) := rfl

/-- Settles O44: the display is the handler's only write beside `pc`, and every cell of the new one is 0. -/
theorem clsClearsTheDisplay : Obligations.ClsClearsTheDisplay :=
  fun x s => ⟨fun _ hx => dispatch_eq_ok_iff.2 ⟨rfl, ignoredNibble_wellFormed hx⟩,
    fun hpc => ⟨_, (exec_cls x s).trans (State.fallThrough_legal s _ hpc), fun px py _ _ => Display.cell_clear px py,
      State.onlyRegs_setPc s hpc⟩,
    State.pcTraps_of_fallThrough (exec_cls x s)⟩

/-! ### Dxyn DRW: the handler -/

/-- What a draw that passes its checks has written before `pc`: the flipped cells, then the collision in `VF`. -/
def State.drawn (s : State) (x y n : Nibble) : State :=
  (s.setDisp (s.disp.flip (s.sprite x y n))).setReg 15 (flagByte (collision s.disp (s.sprite x y n)))

@[simp] theorem State.drawn_disp (s : State) (x y n : Nibble) :
    (s.drawn x y n).disp = s.disp.flip (s.sprite x y n) := rfl

@[simp] theorem State.drawn_i (s : State) (x y n : Nibble) : (s.drawn x y n).i = s.i := by
  rw [State.drawn, State.setReg_i, State.setDisp_i]

@[simp] theorem State.drawn_mem (s : State) (x y n : Nibble) : (s.drawn x y n).mem = s.mem := by
  rw [State.drawn, State.setReg_mem, State.setDisp_mem]

@[simp] theorem State.reg_drawn_flag (s : State) (x y n : Nibble) :
    (s.drawn x y n).reg 15 = flagByte (collision s.disp (s.sprite x y n)) :=
  State.reg_setReg_same _ 15 _

theorem State.reg_drawn_other (s : State) (x y n : Nibble) {k : Nibble} (hk : k ≠ 15) :
    (s.drawn x y n).reg k = s.reg k := by
  rw [State.drawn, State.reg_setReg_other _ _ hk, State.reg_setDisp]

/-- The frame of a handler that writes the display, a register and `pc`, once the old display is put back. -/
theorem State.onlyRegs_setDisp_setReg (s : State) (d : Display) (x : Nibble) (b : Byte) {t : Nat}
    (h : pcLegal s.params t = true) :
    s.onlyRegs ((((s.setDisp d).setReg x b).setPc (BitVec.ofNat 16 t)).setDisp s.disp) [x] t :=
  State.onlyRegs_setReg s x b h

theorem State.onlyRegs_drawn (s : State) (x y n : Nibble) {t : Nat} (h : pcLegal s.params t = true) :
    s.onlyRegs (((s.drawn x y n).setPc (BitVec.ofNat 16 t)).setDisp s.disp) [15] t := by
  rw [State.drawn]
  exact State.onlyRegs_setDisp_setReg s _ 15 _ h

theorem exec_drw_of_accessFault {x y n : Nibble} {s : State} {c : FaultCause} (h : s.accessFault n.toNat = some c) :
    exec (.drw x y n) s = s.raise c := by
  simp only [exec, execDrw, h]

theorem exec_drw_of_drawFault {x y n : Nibble} {s : State} {c : FaultCause} (hmem : s.accessFault n.toNat = none)
    (h : drawFault s.params (s.sprite x y n) = some c) : exec (.drw x y n) s = s.raise c := by
  simp only [exec, execDrw, hmem, h]

theorem exec_drw {x y n : Nibble} {s : State} (hmem : s.accessFault n.toNat = none)
    (hdisp : drawFault s.params (s.sprite x y n) = none) :
    exec (.drw x y n) s = s.fallThrough (s.drawn x y n) := by
  simp only [exec, execDrw, hmem, hdisp, State.drawn]

/-- A draw that takes no fault passed both checks of the sprite. -/
theorem exec_drw_completes {x y n : Nibble} {s t : State} (h : exec (.drw x y n) s = .next t)
    (ht : t.faultLatch = none) : t = (s.drawn x y n).setPc (BitVec.ofNat 16 (s.pc.toNat + 2)) := by
  cases hmem : s.accessFault n.toNat with
  | some c => exact absurd ht (State.raise_latched ((exec_drw_of_accessFault hmem).symm.trans h))
  | none =>
    cases hdisp : drawFault s.params (s.sprite x y n) with
    | some c => exact absurd ht (State.raise_latched ((exec_drw_of_drawFault hmem hdisp).symm.trans h))
    | none => exact State.fallThrough_completes ((exec_drw hmem hdisp).symm.trans h) ht

/-! ### Dxyn DRW: the display check (44_display R183) -/

theorem offScreen_eq_false_iff (px py : Nat) : offScreen (px, py) = false ↔ px < 64 ∧ py < 32 := by
  rw [Bool.eq_false_iff, Ne, offScreen_iff]
  omega

/-- The first position off the display in a row-major list is the row-major least one. -/
theorem find?_offScreen_of_first {ps : List (Nat × Nat)} {px py : Nat}
    (hsorted : ps.Pairwise fun a b => a.2 < b.2 ∨ a.2 = b.2 ∧ a.1 < b.1) (hmem : (px, py) ∈ ps)
    (hoff : px ≥ 64 ∨ py ≥ 32)
    (hfirst : ∀ qx qy, (qx, qy) ∈ ps → (qx ≥ 64 ∨ qy ≥ 32) → py < qy ∨ (py = qy ∧ px ≤ qx)) :
    ps.find? offScreen = some (px, py) := by
  obtain ⟨before, after, rfl⟩ := List.append_of_mem hmem
  refine List.find?_eq_some_iff_append.2 ⟨(offScreen_iff px py).2 hoff, before, after, rfl, ?_⟩
  rintro ⟨qx, qy⟩ hq
  obtain ⟨-, -, hbefore⟩ := List.pairwise_append.1 hsorted
  have hlt : qy < py ∨ qy = py ∧ qx < px := hbefore _ hq _ List.mem_cons_self
  rw [Bool.not_eq_true', offScreen_eq_false_iff]
  by_contra hon
  have hle := hfirst qx qy (List.mem_append_left _ hq) (by omega)
  omega

theorem drawFault_eq_none_iff (p : Config.Params) (ps : List (Nat × Nat)) :
    drawFault p ps = none ↔ (p.drawOob = .fault → ∀ px py, (px, py) ∈ ps → px < 64 ∧ py < 32) := by
  cases hp : p.drawOob with
  | clip => simp [drawFault, hp]
  | fault => simp [drawFault, hp, offScreen_eq_false_iff]

/-- Under DRAW_OOB = fault the first set bit off the display is the one reported. -/
theorem State.drawFault_of_first {s : State} {x y n : Nibble} {px py : Nat} (hoob : s.params.drawOob = .fault)
    (hbit : s.spriteBit x y n px py) (hoff : px ≥ 64 ∨ py ≥ 32)
    (hfirst : ∀ qx qy, s.spriteBit x y n qx qy → (qx ≥ 64 ∨ qy ≥ 32) → py < qy ∨ (py = qy ∧ px ≤ qx)) :
    drawFault s.params (s.sprite x y n) = some (.displayOutOfBounds px py) := by
  have hfind : (s.sprite x y n).find? offScreen = some (px, py) :=
    find?_offScreen_of_first (spritePixels_sorted _ _ _) ((s.mem_sprite x y n px py).2 hbit) hoff
      fun qx qy hq => hfirst qx qy ((s.mem_sprite x y n qx qy).1 hq)
  rw [drawFault, hoob, hfind]
  rfl

/-! ### Dxyn DRW: the cells and the collision -/

/-- A set bit flips its cell. -/
theorem Display.cell_flip_of_mem (d : Display) {ps : List (Nat × Nat)} {px py : Nat} (hx : px < 64) (hy : py < 32)
    (h : (px, py) ∈ ps) : (d.flip ps).cell px py = !d.cell px py := by
  rw [Display.cell_flip d ps hx hy, List.contains_iff_mem.2 h, Bool.xor_true]

theorem Display.cell_flip_of_not_mem (d : Display) {ps : List (Nat × Nat)} {px py : Nat} (hx : px < 64)
    (hy : py < 32) (h : (px, py) ∉ ps) : (d.flip ps).cell px py = d.cell px py := by
  rw [Display.cell_flip d ps hx hy, Bool.eq_false_iff.2 (mt List.contains_iff_mem.1 h), Bool.xor_false]

/-- XOR undoes itself. -/
theorem Display.flip_flip (d : Display) (ps : List (Nat × Nat)) : (d.flip ps).flip ps = d := by
  apply Display.ext_cell
  intro px py hx hy
  rw [Display.cell_flip _ ps hx hy, Display.cell_flip d ps hx hy, Bool.xor_assoc, Bool.xor_self, Bool.xor_false]

/-- A bit off the display takes no part in the collision (44_display R183). -/
theorem collision_iff_on_display (d : Display) (ps : List (Nat × Nat)) :
    collision d ps = true ↔ ∃ px py, px < 64 ∧ py < 32 ∧ (px, py) ∈ ps ∧ d.cell px py = true := by
  rw [collision_iff]
  constructor
  · rintro ⟨px, py, hmem, hcell⟩
    have hon : ¬ (64 ≤ px ∨ 32 ≤ py) := fun hoff => Bool.eq_false_iff.1 (Display.cell_off d hoff) hcell
    exact ⟨px, py, by omega, by omega, hmem, hcell⟩
  · rintro ⟨px, py, -, -, hmem, hcell⟩
    exact ⟨px, py, hmem, hcell⟩

/-- A second draw collides where the first found a 0. -/
theorem collision_flip_iff (d : Display) (ps : List (Nat × Nat)) :
    collision (d.flip ps) ps = true ↔ ∃ px py, px < 64 ∧ py < 32 ∧ (px, py) ∈ ps ∧ d.cell px py = false := by
  rw [collision_iff_on_display]
  constructor
  · rintro ⟨px, py, hx, hy, hmem, hcell⟩
    rw [Display.cell_flip_of_mem d hx hy hmem, Bool.not_eq_true'] at hcell
    exact ⟨px, py, hx, hy, hmem, hcell⟩
  · rintro ⟨px, py, hx, hy, hmem, hcell⟩
    refine ⟨px, py, hx, hy, hmem, ?_⟩
    rw [Display.cell_flip_of_mem d hx hy hmem, hcell]
    rfl

/-- Some set bit of the sprite lands on a display cell that holds `b`. -/
abbrev State.spriteMeets (s : State) (x y n : Nibble) (b : Bool) : Prop :=
  ∃ px py, px < 64 ∧ py < 32 ∧ s.spriteBit x y n px py ∧ s.disp.cell px py = b

theorem State.collision_sprite_iff (s : State) (x y n : Nibble) :
    collision s.disp (s.sprite x y n) = true ↔ s.spriteMeets x y n true := by
  simp only [collision_iff_on_display, State.mem_sprite]

theorem State.collision_flip_sprite_iff (s : State) (x y n : Nibble) :
    collision (s.disp.flip (s.sprite x y n)) (s.sprite x y n) = true ↔ s.spriteMeets x y n false := by
  simp only [collision_flip_iff, State.mem_sprite]

/-- The flag of a draw whose collision is a meeting with cells that hold `b`: 1 where one is met, 0 where every cell met
holds the other value. -/
theorem State.flagByte_of_spriteMeets {s : State} {x y n : Nibble} {f b : Bool}
    (h : f = true ↔ s.spriteMeets x y n b) :
    (s.spriteMeets x y n b → flagByte f = 1) ∧
    ((∀ px py, px < 64 → py < 32 → s.spriteBit x y n px py → s.disp.cell px py = !b) → flagByte f = 0) := by
  constructor
  · intro hmeets
    rw [h.2 hmeets]; rfl
  · intro hother
    have hnone : ¬ s.spriteMeets x y n b := by
      rintro ⟨px, py, hx, hy, hbit, rfl⟩
      exact (Bool.eq_not_self _).1 (hother px py hx hy hbit)
    rw [Bool.eq_false_iff.2 (mt h.1 hnone)]; rfl

/-- A draw that passes the checks of the sprite and has a legal next `pc`. -/
theorem exec_drw_draws {x y n : Nibble} {s : State} (he : exec (.drw x y n) s = s.fallThrough (s.drawn x y n))
    (hpc : pcLegal s.params (s.pc.toNat + 2) = true) :
    ∃ t, exec (.drw x y n) s = .next t ∧
      (∀ px py, px < 64 → py < 32 →
        (s.spriteBit x y n px py → t.disp.cell px py = !s.disp.cell px py) ∧
        (¬ s.spriteBit x y n px py → t.disp.cell px py = s.disp.cell px py)) ∧
      (s.spriteMeets x y n true → t.reg 15 = 1) ∧
      ((∀ px py, px < 64 → py < 32 → s.spriteBit x y n px py → s.disp.cell px py = false) → t.reg 15 = 0) ∧
      s.onlyRegs (t.setDisp s.disp) [15] (s.pc.toNat + 2) := by
  obtain ⟨hset, hclear⟩ := State.flagByte_of_spriteMeets (s.collision_sprite_iff x y n)
  refine ⟨_, he.trans (State.fallThrough_legal s _ hpc), ?_⟩
  rw [State.reg_setPc, State.reg_drawn_flag, State.setPc_disp, State.drawn_disp]
  refine ⟨fun px py hx hy => ⟨fun hbit => ?_, fun hbit => ?_⟩, hset, hclear, State.onlyRegs_drawn s x y n hpc⟩
  · exact Display.cell_flip_of_mem s.disp hx hy ((s.mem_sprite x y n px py).2 hbit)
  · exact Display.cell_flip_of_not_mem s.disp hx hy (mt (s.mem_sprite x y n px py).1 hbit)

/-- Settles O45: the checks come in the handler's order, and a draw that passes them flips exactly its set bits. -/
theorem drawXorsTheSprite : Obligations.DrawXorsTheSprite := by
  refine fun x y n s => ⟨fun _ => dispatch_eq_ok_iff.2 ⟨rfl, rfl⟩, fun hn hout => ?memory, fun hin => ?inside⟩
  case memory =>
    exact exec_drw_of_accessFault ((State.accessFault_eq_some s _ _).2 ⟨hn, by omega, rfl⟩)
  case inside =>
    have hmem : s.accessFault n.toNat = none := (State.accessFault_eq_none s _).2 fun hn => by
      have := hin hn
      omega
    refine ⟨fun px py hoob hbit hoff hfirst => ?display, fun hon => ?draw⟩
    case display => exact exec_drw_of_drawFault hmem (State.drawFault_of_first hoob hbit hoff hfirst)
    case draw =>
      have hdisp : drawFault s.params (s.sprite x y n) = none :=
        (drawFault_eq_none_iff _ _).2 fun hoob px py hp => hon px py hoob ((s.mem_sprite x y n px py).1 hp)
      have he : exec (.drw x y n) s = s.fallThrough (s.drawn x y n) := exec_drw hmem hdisp
      exact ⟨exec_drw_draws he, State.pcTraps_of_fallThrough he⟩

/-! ### The same sprite twice -/

/-- A draw whose coordinates are not in `VF` keeps all the sprite is read from. -/
theorem State.sprite_drawn (s : State) {x y : Nibble} (n : Nibble) (hx : x ≠ 15) (hy : y ≠ 15) (pc : Word) :
    ((s.drawn x y n).setPc pc).sprite x y n = s.sprite x y n := by
  simp only [State.sprite, State.reg_setPc, State.reg_drawn_other s x y n hx, State.reg_drawn_other s x y n hy,
    State.setPc_mem, State.drawn_mem, State.setPc_i, State.drawn_i]

/-- Settles O48: the second draw flips the same cells back, and it collides where the first draw found a 0. -/
theorem drawingTwiceRestoresTheDisplay : Obligations.DrawingTwiceRestoresTheDisplay := by
  intro x y n s t u hx hy _ hfirst ht hsecond hu
  obtain rfl := exec_drw_completes hfirst ht
  obtain rfl := exec_drw_completes hsecond hu
  obtain ⟨hset, hclear⟩ := State.flagByte_of_spriteMeets (s.collision_flip_sprite_iff x y n)
  simp only [State.setPc_disp, State.drawn_disp, State.reg_setPc, State.reg_drawn_flag, State.sprite_drawn s n hx hy]
  exact ⟨Display.flip_flip _ _, hset, hclear⟩

end Sys2Proof.Machine
end

section
/-! PROOFS. The audio context: the machine state never depends on it (60_exceptions R235). -/

namespace Sys2Proof.Machine

/-! ### States that differ in the audio queue and the phase -/

/-- The same machine with another audio queue and phase. -/
def State.withAudio (q : List Segment) (p : Nat) (s : State) : State := { s with queue := q, phase := p }

theorem State.sameButAudio_iff {s t : State} : s.sameButAudio t ↔ ∃ q p, t = s.withAudio q p :=
  ⟨fun h => ⟨t.queue, t.phase, by rw [← h]; rfl⟩, by rintro ⟨q, p, rfl⟩; rfl⟩

theorem State.sameButAudio_withAudio (s : State) (q : List Segment) (p : Nat) : s.sameButAudio (s.withAudio q p) :=
  State.sameButAudio_iff.2 ⟨q, p, rfl⟩

theorem State.sameButAudio.trans {s t u : State} (h : s.sameButAudio t) (h' : t.sameButAudio u) :
    s.sameButAudio u := by
  obtain ⟨_, _, rfl⟩ := State.sameButAudio_iff.1 h
  obtain ⟨_, _, rfl⟩ := State.sameButAudio_iff.1 h'
  exact State.sameButAudio_withAudio s _ _

theorem State.sameButAudio.symm {s t : State} (h : s.sameButAudio t) : t.sameButAudio s := by
  obtain ⟨_, _, rfl⟩ := State.sameButAudio_iff.1 h
  exact State.sameButAudio_withAudio (s.withAudio _ _) s.queue s.phase

/-- An outcome with another audio queue and phase in its next state. -/
def outcomeWithAudio (q : List Segment) (p : Nat) : Outcome → Outcome
  | .next t => .next (t.withAudio q p)
  | .fault r => .fault r
  | .refused r => .refused r

theorem State.commit_withAudio {q : List Segment} {p : Nat} {s after after' : State} (t : Nat)
    (h : after' = after.withAudio q p) :
    (s.withAudio q p).commit t after' = outcomeWithAudio q p (s.commit t after) := by
  cases hl : pcLegal s.params t with
  | true => rw [State.commit_legal s after hl, State.commit_legal (s.withAudio q p) after' hl, h]; rfl
  | false => rw [State.commit_illegal s after hl, State.commit_illegal (s.withAudio q p) after' hl]; rfl

/-! ### What a handler reads is no part of the audio context -/

section
variable (q : List Segment) (p : Nat) (s : State)

@[simp] theorem State.withAudio_sp : (s.withAudio q p).sp = s.sp := rfl

@[simp] theorem State.withAudio_params : (s.withAudio q p).params = s.params := rfl

@[simp] theorem State.withAudio_faultLatch : (s.withAudio q p).faultLatch = s.faultLatch := rfl

@[simp] theorem State.reg_withAudio (x : Nibble) : (s.withAudio q p).reg x = s.reg x := rfl

@[simp] theorem State.fetch_withAudio : (s.withAudio q p).fetch = s.fetch := rfl

@[simp] theorem State.accessFault_withAudio (len : Nat) : (s.withAudio q p).accessFault len = s.accessFault len := rfl

@[simp] theorem State.sprite_withAudio (x y n : Nibble) : (s.withAudio q p).sprite x y n = s.sprite x y n := rfl

@[simp] theorem State.lowestKey_withAudio : (s.withAudio q p).lowestKey = s.lowestKey := rfl

theorem State.raise_withAudio (c : FaultCause) :
    (s.withAudio q p).raise c = outcomeWithAudio q p (s.raise c) := rfl

theorem State.setLogic_withAudio (x : Nibble) (b : Byte) :
    (s.withAudio q p).setLogic x b = (s.setLogic x b).withAudio q p := by
  simp only [State.setLogic, State.withAudio_params]
  split <;> rfl

/-- An instruction's meaning and the audio context pass each other by: the one place that goes through the handlers. -/
theorem exec_withAudio (i : Instr) : exec i (s.withAudio q p) = outcomeWithAudio q p (exec i s) := by
  cases i
  case ret | call => -- the stack's bound, then `commit`
    simp only [exec, execRet, execCall, State.withAudio_sp, State.withAudio_params, apply_ite (outcomeWithAudio q p)]
    exact ite_congr rfl (fun _ => State.raise_withAudio ..) fun _ => State.commit_withAudio _ rfl
  case skp | sknp | ldBVx | ldMemVx | ldVxMem => -- the range of a key or an access, then `commit`
    simp only [exec, execSkp, execSknp, execLdBVx, execLdMemVx, execLdVxMem, State.withAudio_params,
      State.reg_withAudio, State.accessFault_withAudio]
    split
    · exact State.raise_withAudio ..
    · exact State.commit_withAudio _ rfl
  case drw =>
    simp only [exec, execDrw, State.accessFault_withAudio, State.sprite_withAudio, State.withAudio_params]
    split
    · exact State.raise_withAudio ..
    · split
      · exact State.raise_withAudio ..
      · exact State.commit_withAudio _ rfl
  case ldVxK =>
    simp only [exec, execLdVxK, State.lowestKey_withAudio]
    split
    · exact State.commit_withAudio _ rfl
    · rfl
  case orReg | andReg | xorReg => exact State.commit_withAudio _ (State.setLogic_withAudio ..)
  all_goals exact State.commit_withAudio _ rfl

theorem step_withAudio : step (s.withAudio q p) = outcomeWithAudio q p (step s) := by
  simp only [step, cycle, State.withAudio_faultLatch, State.fetch_withAudio, State.withAudio_params]
  split
  · rfl
  · split
    · exact State.raise_withAudio ..
    · split
      · exact State.raise_withAudio ..
      · exact exec_withAudio ..

end

/-! ### The operations -/

/-- An operation takes states equal but for the audio context to such states. -/
theorem HostOp.apply_sameButAudio (r : Config.Rates) (op : HostOp) {s t : State} (h : s.sameButAudio t) :
    (op.apply r s).sameButAudio (op.apply r t) := by
  obtain ⟨q, p, rfl⟩ := State.sameButAudio_iff.1 h
  cases op with
  | load image =>
    simp only [HostOp.apply, State.load]
    split
    · exact h
    · exact State.sameButAudio_withAudio _ [] 0
  | step =>
    simp only [HostOp.apply, step_withAudio]
    cases Machine.step s with
    | next t => exact State.sameButAudio_withAudio t q p
    | fault _ => exact h
    | refused _ => exact h
  | tickFrame elapsed =>
    simp only [HostOp.apply, State.tickFrame, State.withAudio_faultLatch]
    split
    · exact h
    · exact State.sameButAudio_withAudio _ _ p
  | setKey index pressed => exact State.sameButAudio_withAudio _ q p
  | getDisplay => exact h
  | fillAudio len => exact State.sameButAudio_withAudio _ _ _

/-- An operation of the audio context writes nothing the main context can tell apart. -/
theorem HostOp.sameButAudio_apply_audio (r : Config.Rates) {op : HostOp} (h : op.agent ≠ .main) (s : State) :
    s.sameButAudio (op.apply r s) := by
  cases op with
  | fillAudio len => exact State.sameButAudio_withAudio s _ _
  | _ => exact absurd rfl h

theorem runOps_sameButAudio (r : Config.Rates) (ops : List HostOp) {s t : State} (h : s.sameButAudio t) :
    (runOps r ops s).sameButAudio (runOps r ops t) := by
  induction ops generalizing s t with
  | nil => exact h
  | cons op ops ih => exact ih (op.apply_sameButAudio r h)

/-- A run and the same run without the audio context's operations. -/
theorem runOps_sameButAudio_filter (r : Config.Rates) (ops : List HostOp) {s t : State} (h : s.sameButAudio t) :
    (runOps r ops s).sameButAudio (runOps r (ops.filter fun op => op.agent = .main) t) := by
  induction ops generalizing s t with
  | nil => exact h
  | cons op ops ih =>
    by_cases hmain : op.agent = .main
    · rw [List.filter_cons_of_pos (by simpa using hmain)]
      exact ih (op.apply_sameButAudio r h)
    · rw [List.filter_cons_of_neg (by simpa using hmain)]
      exact ih ((HostOp.sameButAudio_apply_audio r hmain s).symm.trans h)

/-- Settles O20: a simulation over the operations, for states equal but for the audio context. -/
theorem machineStateIgnoresTheAudioContext : Obligations.MachineStateIgnoresTheAudioContext :=
  fun r ops _ _ h => ⟨runOps_sameButAudio r ops h, runOps_sameButAudio_filter r ops h⟩

end Sys2Proof.Machine
end

section
/-! PROOFS. `fill_audio` (60_exceptions R230 to R233). -/

namespace Sys2Proof.Machine

/-- What draining a queue gives: samples out and a queue left (60_exceptions R230, R231). A segment is removed when all
of it is needed, and shortened in place when less is. -/
inductive Drained {σ : Type} (wave : Config.Waveform σ) : List Segment → Nat → Nat → List σ → List Segment → Prop
  | enough (q : List Segment) (p : Nat) : Drained wave q 0 p [] q
  | padded (need p : Nat) : Drained wave [] need p (List.replicate need wave.silence) []
  | removed {g : Segment} {q left : List Segment} {need p : Nat} {out : List σ}
      (h : Drained wave q need (p + g.count) out left) :
      Drained wave (g :: q) (g.count + need) p (segmentSamples wave g.tone p g.count ++ out) left
  | shortened (g : Segment) (q : List Segment) {need : Nat} (p : Nat) (hpos : 0 < need) (hlt : need < g.count) :
      Drained wave (g :: q) need p (segmentSamples wave g.tone p need) ({ g with count := g.count - need } :: q)

theorem drained_drainQueue {σ : Type} (wave : Config.Waveform σ) (q : List Segment) (need p : Nat) :
    Drained wave q need p (drainQueue wave q need p).1 (drainQueue wave q need p).2 := by
  induction q generalizing need p with
  | nil =>
    cases need with
    | zero => exact .enough [] p
    | succ need => exact .padded (need + 1) p
  | cons g q ih =>
    cases need with
    | zero => exact .enough (g :: q) p
    | succ need =>
      rw [drainQueue_cons]
      split
      · rename_i hle
        obtain ⟨more, hmore⟩ := Nat.exists_eq_add_of_le hle
        rw [hmore, Nat.add_sub_cancel_left]
        exact .removed (ih more (p + g.count))
      · exact .shortened g q p need.succ_pos (by omega)

/-! ### The samples -/

/-- The sample at phase `p` for what a queue holds there: a tone flag, or nothing (60_exceptions R232). -/
def sampleAt {σ : Type} (wave : Config.Waveform σ) (flag : Option Bool) (p : Nat) : σ :=
  if flag = some true then wave.tone p else wave.silence

@[simp] theorem sampleAt_none {σ : Type} (wave : Config.Waveform σ) (p : Nat) :
    sampleAt wave none p = wave.silence := rfl

theorem segmentSamples_eq {σ : Type} (wave : Config.Waveform σ) (tone : Bool) (p count : Nat) :
    segmentSamples wave tone p count = (List.range count).map fun j => sampleAt wave (some tone) (p + j) := by
  simp [segmentSamples, sampleAt]

theorem queueSamples_cons (g : Segment) (q : List Segment) :
    queueSamples (g :: q) = List.replicate g.count g.tone ++ queueSamples q := rfl

theorem getElem_queueSamples_head (g : Segment) (q : List Segment) {j : Nat} (h : j < g.count) :
    (queueSamples (g :: q))[j]? = some g.tone := by
  rw [queueSamples_cons, List.getElem?_append_left (by simpa using h), List.getElem?_replicate_of_lt h]

theorem getElem_queueSamples_tail (g : Segment) (q : List Segment) (j : Nat) :
    (queueSamples (g :: q))[g.count + j]? = (queueSamples q)[j]? := by
  rw [queueSamples_cons, List.getElem?_append_right (by simp)]
  simp

/-- The first samples of a queue are those of its head segment. -/
theorem segmentSamples_head {σ : Type} (wave : Config.Waveform σ) (g : Segment) (q : List Segment) (p : Nat)
    {n : Nat} (h : n ≤ g.count) : segmentSamples wave g.tone p n =
      (List.range n).map fun j => sampleAt wave (queueSamples (g :: q))[j]? (p + j) := by
  rw [segmentSamples_eq]
  refine List.map_congr_left fun j hj => ?_
  rw [getElem_queueSamples_head g q ((List.mem_range.1 hj).trans_le h)]

section
variable {σ : Type} {wave : Config.Waveform σ} {q left : List Segment} {need p : Nat} {out : List σ}

theorem Drained.out_eq (h : Drained wave q need p out left) :
    out = (List.range need).map fun j => sampleAt wave (queueSamples q)[j]? (p + j) := by
  induction h with
  | enough q p => rfl
  | padded need p => simp [queueSamples]
  | @removed g q left need p out _ ih =>
    rw [List.range_add, List.map_append, ← segmentSamples_head wave g q p le_rfl, List.map_map, ih]
    simp only [Function.comp_def, getElem_queueSamples_tail, Nat.add_assoc]
  | shortened g q p _ hlt => exact segmentSamples_head wave g q p hlt.le

/-! ### What is left in the queue -/

theorem Drained.queueSamples_left (h : Drained wave q need p out left) :
    queueSamples left = (queueSamples q).drop need := by
  induction h with
  | enough q p => rfl
  | padded need p => exact List.drop_nil.symm
  | removed _ ih => rw [ih, ← List.drop_drop, queueSamples_cons, List.drop_left' (List.length_replicate)]
  | shortened g q p _ hlt =>
    rw [queueSamples_cons, queueSamples_cons, List.drop_append_of_le_length (by simpa using hlt.le),
      List.drop_replicate]

/-- Segments are removed from the head on, and at most the next one is shortened. -/
theorem Drained.left_cases (h : Drained wave q need p out left) :
    ∃ k, left = q.drop k ∨ ∃ g rest m, q.drop k = g :: rest ∧ 0 < m ∧ m < g.count ∧
      left = { g with count := g.count - m } :: rest := by
  induction h with
  | enough q p => exact ⟨0, .inl rfl⟩
  | padded need p => exact ⟨0, .inl rfl⟩
  | removed _ ih =>
    obtain ⟨k, hleft⟩ := ih
    exact ⟨k + 1, hleft⟩
  | @shortened g q need p hpos hlt => exact ⟨0, .inr ⟨g, q, need, rfl, hpos, hlt, rfl⟩⟩

/-- No empty segment arises (60_exceptions R233). -/
theorem Drained.one_le_count (h : Drained wave q need p out left) (hq : ∀ g ∈ q, 1 ≤ g.count) :
    ∀ g ∈ left, 1 ≤ g.count := by
  induction h with
  | enough q p => exact hq
  | padded need p => exact hq
  | removed _ ih => exact ih (List.forall_mem_of_forall_mem_cons hq)
  | shortened g q p _ hlt =>
    exact List.forall_mem_cons.2 ⟨Nat.sub_pos_of_lt hlt, List.forall_mem_of_forall_mem_cons hq⟩

end

/-- Settles O56: by induction on how the queue drains. -/
theorem fillAudioDrainsTheQueueInOrder : Obligations.FillAudioDrainsTheQueueInOrder := by
  intro σ wave len s
  have hdrained := drained_drainQueue wave s.queue len s.phase
  exact ⟨hdrained.out_eq, hdrained.queueSamples_left, hdrained.left_cases, rfl, rfl, hdrained.one_le_count⟩

end Sys2Proof.Machine
end

section
/-! PROOFS. The frame scheduler: the timers and segments of a reconciliation, `tick_frame`, and the batch of the main loop
(60_exceptions R210 to R223). -/

namespace Sys2Proof.Machine

/-! ### Timers -/

/-- Frames add up, however they are split. -/
theorem timerAfter_timerAfter (b : Byte) (n m : Nat) : timerAfter (timerAfter b n) m = timerAfter b (n + m) := by
  apply BitVec.eq_of_toNat_eq
  simp only [toNat_timerAfter]
  omega

theorem timerAfter_eq_zero {b : Byte} {n : Nat} (h : b.toNat ≤ n) : timerAfter b n = 0 := by
  apply BitVec.eq_of_toNat_eq
  rw [toNat_timerAfter, Nat.min_eq_left h, Nat.sub_self]
  rfl

/-! ### The segments of one reconciliation -/

theorem toneSegments_zero (spf n : Nat) : toneSegments spf 0 n = [] := rfl

theorem toneSegments_of_ne_zero (spf : Nat) {b : Byte} (n : Nat) (h : b ≠ 0) :
    toneSegments spf b n = (if 0 < min b.toNat n then [⟨min b.toNat n * spf, true⟩] else []) ++
      (if 0 < n - min b.toNat n then [⟨(n - min b.toNat n) * spf, false⟩] else []) :=
  if_neg (BitVec.toNat_ne_iff_ne.2 h)

/-- A segment for no frames is left out, so each appended one has a sample (60_exceptions R233). -/
theorem one_le_count_of_mem_segmentIf {k spf : Nat} {tone : Bool} (hspf : 1 ≤ spf) {g : Segment}
    (hg : g ∈ if 0 < k then [Segment.mk (k * spf) tone] else []) : 1 ≤ g.count := by
  split at hg
  · rw [List.mem_singleton.1 hg]
    exact Nat.mul_pos ‹_› hspf
  · cases hg

theorem one_le_count_of_mem_toneSegments {spf : Nat} {b : Byte} {n : Nat} (hspf : 1 ≤ spf) {g : Segment}
    (hg : g ∈ toneSegments spf b n) : 1 ≤ g.count := by
  by_cases hb : b = 0
  · rw [hb, toneSegments_zero] at hg
    cases hg
  · rw [toneSegments_of_ne_zero spf n hb] at hg
    exact (List.mem_append.1 hg).elim (one_le_count_of_mem_segmentIf hspf) (one_le_count_of_mem_segmentIf hspf)

theorem sum_count_segmentIf (k spf : Nat) (tone : Bool) :
    ((if 0 < k then [Segment.mk (k * spf) tone] else []).map fun g => g.count).sum = k * spf := by
  split
  · exact List.sum_singleton
  · have hk : k = 0 := by omega
    rw [hk, Nat.zero_mul]; rfl

/-- With `ST` nonzero the frames due are all heard, as tone or as silence. -/
theorem sum_count_toneSegments (spf : Nat) {b : Byte} (n : Nat) (hb : b ≠ 0) :
    ((toneSegments spf b n).map fun g => g.count).sum = n * spf := by
  rw [toneSegments_of_ne_zero spf n hb, List.map_append, List.sum_append, sum_count_segmentIf, sum_count_segmentIf,
    ← Nat.add_mul, Nat.add_sub_cancel' (Nat.min_le_right _ _)]

/-- Settles O53: the timers' sum law, and the segments by whether `ST` is 0. -/
theorem timersCountFramesDownToZero : Obligations.TimersCountFramesDownToZero :=
  fun _ _ _ _ => ⟨timerAfter_timerAfter _ _ _, timerAfter_timerAfter _ _ _, Nat.add_assoc _ _ _,
    timerAfter_eq_zero, timerAfter_eq_zero, fun hspf _ => one_le_count_of_mem_toneSegments hspf,
    sum_count_toneSegments _ _⟩

/-! ### tick_frame -/

theorem State.tickFrame_halted {r : Config.Rates} {elapsed : Rat} {s : State} (h : s.faultLatch ≠ none) :
    s.tickFrame r elapsed = (⟨0, 0⟩, s) := by
  unfold State.tickFrame
  split
  · rfl
  · exact absurd ‹_› h

theorem State.tickFrame_running {r : Config.Rates} {elapsed : Rat} {s : State} (h : s.faultLatch = none) :
    s.tickFrame r elapsed =
      (⟨s.framesDue elapsed, r.ipf * max (s.framesDue elapsed) 1⟩, s.reconcile r.spf (s.framesDue elapsed)) := by
  rw [State.tickFrame, h]

/-- The frames due, from the floor as an integer (60_exceptions R211). -/
theorem State.framesDue_eq {s : State} {elapsed : Rat} {total : Nat} (h : (total : Int) = (elapsed * 60).floor) :
    s.framesDue elapsed = total - s.framesProcessed := by
  have hrate : (Config.frameRate : Rat) = 60 := rfl
  rw [State.framesDue, totalFrames, hrate, ← h, Int.toNat_natCast]

/-- Settles O52: the reconciliation's fields, with the segments by whether `ST` is 0. -/
theorem tickFrameReconciles : Obligations.TickFrameReconciles := by
  refine fun r elapsed s => ⟨State.tickFrame_halted, fun hlatch _ total n t htotal hn ht => ?_⟩
  subst hn ht
  rw [State.tickFrame_running hlatch, State.framesDue_eq htotal]
  refine ⟨_, rfl, rfl, toNat_timerAfter _ _, ?_, fun hst => ?_, fun hst => ?_, rfl⟩
  · rw [State.reconcile_st, toNat_timerAfter]
  · rw [State.reconcile_queue, hst, toneSegments_zero, List.append_nil]
  · rw [State.reconcile_queue, toneSegments_of_ne_zero _ _ hst, List.append_assoc]

/-! ### The wait gate and the batch -/

theorem State.gate_iff (s : State) : s.gate = true ↔ s.waiting = true ∧ ∀ k, k < 16 → s.key k = false := by
  simp [State.gate, State.anyKey, State.lowestKey_eq_none]

/-- What a batch does: `n` steps from `s` to `u` within its budget, and why it stopped (60_exceptions R220, R221). -/
inductive State.Batch : Nat → State → Nat → State → Prop
  | spent (s : State) : State.Batch 0 s 0 s
  | stopped (budget : Nat) (s : State) (h : s.halted ∨ s.gate = true) : State.Batch budget s 0 s
  | step {budget n : Nat} {s t u : State} (hlatch : s.faultLatch = none) (hgate : s.gate = false)
      (hstep : Machine.step s = .next t) (hrest : State.Batch budget t n u) : State.Batch (budget + 1) s (n + 1) u

theorem State.runBatch_stopped {s : State} (budget : Nat) (h : s.halted ∨ s.gate = true) :
    s.runBatch budget = (0, s) := by
  cases budget with
  | zero => rfl
  | succ budget => rw [State.runBatch, if_pos (by simpa using h)]

theorem State.runBatch_step {s t : State} (budget : Nat) (hlatch : s.faultLatch = none) (hgate : s.gate = false)
    (hstep : step s = .next t) :
    s.runBatch (budget + 1) = ((t.runBatch budget).1 + 1, (t.runBatch budget).2) := by
  rw [State.runBatch, if_neg (by simp [hlatch, hgate]), hstep]

theorem State.batch_runBatch (budget : Nat) (s : State) :
    State.Batch budget s (s.runBatch budget).1 (s.runBatch budget).2 := by
  induction budget generalizing s with
  | zero => exact .spent s
  | succ budget ih =>
    by_cases hstop : s.halted ∨ s.gate = true
    · rw [State.runBatch_stopped _ hstop]
      exact .stopped _ s hstop
    · obtain ⟨hrun, hopen⟩ := not_or.1 hstop
      have hlatch : s.faultLatch = none := by simpa using hrun
      have hgate : s.gate = false := by simpa using hopen
      obtain ⟨t, hstep⟩ := step_answers hlatch
      rw [State.runBatch_step budget hlatch hgate hstep]
      exact .step hlatch hgate hstep (ih t)

section
variable {budget n : Nat} {s u : State}

theorem State.Batch.run (h : State.Batch budget s n u) : Host.Core.run Sys2Proof.core n s = .next u := by
  induction h with
  | spent s => rfl
  | stopped _ s _ => rfl
  | step _ _ hstep _ ih => exact (run_succ _ hstep).trans ih

theorem State.Batch.le_budget (h : State.Batch budget s n u) : n ≤ budget := by
  induction h with
  | spent s => exact le_rfl
  | stopped budget s _ => exact budget.zero_le
  | step _ _ _ _ ih => exact Nat.succ_le_succ ih

/-- Each step of a batch starts from a state that is neither halted nor gated. -/
theorem State.Batch.steps_from_open (h : State.Batch budget s n u) : ∀ k, k < n → ∃ v : State,
    Host.Core.run Sys2Proof.core k s = .next v ∧ v.faultLatch = none ∧ v.gate = false := by
  induction h with
  | spent s => exact nofun
  | stopped _ s _ => exact nofun
  | @step _ _ s _ _ hlatch hgate hstep _ ih =>
    rintro (_ | k) hk
    · exact ⟨s, rfl, hlatch, hgate⟩
    · rw [run_succ k hstep]
      exact ih k (Nat.lt_of_succ_lt_succ hk)

theorem State.Batch.stops_halted_or_gated (h : State.Batch budget s n u) (hshort : n < budget) :
    u.halted ∨ u.gate = true := by
  induction h with
  | spent s => exact absurd hshort (Nat.lt_irrefl 0)
  | stopped _ s hstop => exact hstop
  | step _ _ _ _ ih => exact ih (Nat.lt_of_succ_lt_succ hshort)

end

/-- Settles O54: by induction on what the batch did. -/
theorem batchUsesItsBudgetUnlessHaltedOrWaiting : Obligations.BatchUsesItsBudgetUnlessHaltedOrWaiting := by
  intro budget s
  have hbatch := State.batch_runBatch budget s
  exact ⟨hbatch.run, hbatch.le_budget, hbatch.steps_from_open, hbatch.stops_halted_or_gated,
    fun hgate => State.runBatch_stopped budget (.inr hgate), s.gate_iff⟩

end Sys2Proof.Machine
end

section
/-! PROOFS. The host interface: `set_key`, and a machine that is parked (60_exceptions R241, R244). -/

namespace Sys2Proof.Machine

/-! ### set_key -/

theorem State.setKey_refused {index : Nat} (pressed : Bool) (s : State) (h : 15 < index) :
    s.setKey index pressed = s := by
  rw [State.setKey, Vector.setIfInBounds_eq_of_size_le h]

/-- Settles O55: the law of a key read after a key write, whose bound is that of the table. -/
theorem setKeyWritesOneKey : Obligations.SetKeyWritesOneKey := by
  refine fun index pressed s => ⟨fun k => ?_, fun h => ⟨decide_eq_true h, State.setKey_refused pressed s h⟩, rfl⟩
  rw [State.key_setKey]
  exact if_congr (and_congr_right' Nat.lt_succ_iff) rfl rfl

/-! ### A parked machine -/

/-- The twelve bits a jump to itself holds are all of a legal `pc`. -/
theorem State.pcInv.toNat_setWidth {s : State} (h : s.pcInv) : (s.pc.setWidth 12 : Addr).toNat = s.pc.toNat := by
  obtain ⟨hle, -⟩ := (pcLegal_iff _ _).1 h
  rw [BitVec.toNat_setWidth, Nat.mod_eq_of_lt (by omega)]

theorem step_parked {s : State} (hlatch : s.faultLatch = none) (hpc : s.pcInv) (h : s.parked) :
    step s = .next s := by
  have hd : dispatch s.params.decodeStrict (packNnn 0x1 (s.pc.setWidth 12)) = .ok (.jp (s.pc.setWidth 12)) :=
    dispatch_eq_ok_iff.2 ⟨rfl, rfl⟩
  rw [step_legal hlatch h hd, exec_jp, hpc.toNat_setWidth, State.commit_legal s s hpc, BitVec.ofNat_toNat,
    BitVec.setWidth_eq]
  rfl

/-- Settles O51: one step of a parked machine changes nothing, so no number of steps does. -/
theorem parkedMachineStaysParked : Obligations.ParkedMachineStaysParked :=
  fun _ k hlatch hpc hparked => run_of_step_self (step_parked hlatch hpc hparked) k

end Sys2Proof.Machine
end

section
/-! PROOFS. Faults are precise: a step that halts the machine writes the latch alone (60_exceptions R202, R203). -/

namespace Sys2Proof.Machine

/-- A step that halts the machine took a fault and did nothing else (60_exceptions R202). -/
theorem step_faulted {s t : State} {rec : FaultRecord} (h : step s = .next t) (ht : t.faultLatch = some rec) :
    s.faultLatch = none ∧ ∃ c, t = s.faulted c := by
  obtain ⟨hlatch, ⟨-, rfl⟩ | ⟨_, _, -, -, rfl⟩ | ⟨_, i, -, -, he⟩⟩ := cycle_cases h
  · exact ⟨hlatch, _, rfl⟩
  · exact ⟨hlatch, _, rfl⟩
  · obtain hfault | hkept := exec_latch he
    · exact ⟨hlatch, hfault⟩
    · exact absurd (ht.symm.trans (hkept.trans hlatch)) nofun

theorem stepResult_fault {s t : State} {rec : FaultRecord} (h : step s = .next t) (ht : t.faultLatch = some rec) :
    stepResult s = .fault rec := by
  simp only [stepResult, ← step_eq_cycle, h, ht]

/-- Settles O10: the only step that ends halted is a fault's entry, which writes the latch alone. -/
theorem faultsArePrecise : Obligations.FaultsArePrecise := by
  intro s t rec hstep ht
  obtain ⟨hlatch, c, rfl⟩ := step_faulted hstep ht
  have hrec : s.record c = rec := Option.some.inj ht
  exact ⟨State.faulted_clear hlatch c, hrec ▸ rfl, hrec ▸ rfl, stepResult_fault hstep ht⟩

end Sys2Proof.Machine
end

section
/-! PROOFS. Every operation keeps the invariant of the engine, so every run of them does (60_exceptions R224, R235). -/

namespace Sys2Proof.Machine

theorem one_le_spf_of_valid {r : Config.Rates} (h : r.valid = true) : 1 ≤ r.spf := by
  simp only [Config.Rates.valid, Bool.and_eq_true, decide_eq_true_eq] at h
  exact h.2

theorem loadedMemory_wf (p : Config.Params) (image : List Byte) : Memory.wf (loadedMemory p image) :=
  Memory.wf_setBytes _ _ image (Memory.wf_setBytes [] 0 p.font.toList Memory.wf_nil)

/-- `load` gives the invariant, whatever the state was. -/
theorem loadedState_inv (p : Config.Params) (draws : Nat) (image : List Byte) : (loadedState p draws image).Inv where
  mem := loadedMemory_wf p image
  pc := pcLegal_progBase p
  stack := ⟨Nat.zero_le _, List.length_replicate⟩
  returns a ha := by
    rw [List.eq_of_mem_replicate ha]
    exact ⟨by decide, fun _ => rfl⟩
  queue := nofun
  latch := nofun
  wait := nofun

/-- Frames touch no part of the invariant but the queue, where no segment they append is empty. -/
theorem State.Inv.reconcile {s : State} {spf : Nat} (h : s.Inv) (hspf : 1 ≤ spf) (n : Nat) :
    (s.reconcile spf n).Inv where
  __ := h
  queue g hg := (List.mem_append.1 hg).elim (h.queue g) (one_le_count_of_mem_toneSegments hspf)

/-- No part of the invariant reads the keys. -/
theorem State.Inv.setKey {s : State} (h : s.Inv) (index : Nat) (pressed : Bool) : (s.setKey index pressed).Inv where
  __ := h

theorem State.Inv.fillAudio {σ : Type} {s : State} (h : s.Inv) (wave : Config.Waveform σ) (len : Nat) :
    (s.fillAudio wave len).2.Inv where
  __ := h
  queue := (drained_drainQueue wave s.queue len s.phase).one_le_count h.queue

theorem HostOp.apply_inv {r : Config.Rates} (hr : r.valid = true) (op : HostOp) {s : State} (h : s.Inv) :
    (op.apply r s).Inv := by
  cases op with
  | load image =>
    simp only [HostOp.apply, State.load]
    split
    · exact h
    · exact loadedState_inv _ _ image
  | step =>
    simp only [HostOp.apply]
    split
    · exact stepKeepsTheInvariant _ _ h ‹_›
    · exact h
    · exact h
  | tickFrame elapsed =>
    simp only [HostOp.apply, State.tickFrame]
    split
    · exact h
    · exact h.reconcile (one_le_spf_of_valid hr) _
  | setKey index pressed => exact h.setKey index pressed
  | getDisplay => exact h
  | fillAudio len => exact h.fillAudio _ len

/-- Settles O14: by induction on the operations, each of which keeps the invariant. -/
theorem everyRunKeepsTheInvariant : Obligations.EveryRunKeepsTheInvariant := by
  intro r ops s hr h
  induction ops generalizing s with
  | nil => exact h
  | cons op ops ih => exact ih _ (op.apply_inv hr h)

end Sys2Proof.Machine
end
